-- ==== Sys2Proof/Word.lean ====
section
/-! DEFINITION. The word types of the Fysil FT9, and the sparse map, keyed by unit numbers, that every other file uses. -/

namespace Sys2Proof

/-- One byte of memory or of a host message. -/
abbrev Byte := BitVec 8

/-- A 64-bit register, instruction word or scalar register (R291, R426). -/
abbrev Word := BitVec 64

/-- A 32-bit element, FP32 value or checksum. -/
abbrev Word32 := BitVec 32

/-- A sparse map from unit numbers to unit states: an entry that is not listed has the value the unit has at
reset. Keys rise strictly. -/
abbrev FMap (α : Type) := List (Nat × α)

end Sys2Proof
end

