-- ==== Sys2Proof/Syntax.lean ====
section
/-! DEFINITION. The commands of the block: one constructor of `Instr` per row of spec/opcode_table.json, with its
operands, and the structures those operands are made of. -/

namespace Sys2Proof

/-! ### Fields of an instruction word (Tables 1 and 5 of Instruction Set Encodings, R291, R298) -/

/-- The core site whose wheel offers the slot, and the fields common to every class (R291 Table 1). -/
structure Issue where
  site : Nat
  pr : BitVec 3
  pn : BitVec 1
  wm : BitVec 8
  sb : BitVec 3
  deriving DecidableEq, Repr

/-- Format Z: no operands. -/
structure FZ where
  z : BitVec 39
  deriving DecidableEq, Repr

/-- Format B: branches. -/
structure FB where
  tgt : BitVec 14
  ra : BitVec 4
  rd : BitVec 4
  z : BitVec 17
  deriving DecidableEq, Repr

/-- Format K: wheel segments, barriers and signals. -/
structure FK where
  c : BitVec 9
  k : BitVec 6
  n : BitVec 16
  ra : BitVec 4
  cr : BitVec 1
  z : BitVec 3
  deriving DecidableEq, Repr

/-- Format S: scalar. -/
structure FS where
  rd : BitVec 4
  ra : BitVec 4
  rb : BitVec 4
  ib : BitVec 1
  imm : BitVec 26
  deriving DecidableEq, Repr

/-- Format V: vector, arithmetic pipe. -/
structure FV where
  vd : BitVec 5
  va : BitVec 5
  vb : BitVec 5
  bs : BitVec 1
  vc : BitVec 5
  ty : BitVec 2
  rm : BitVec 2
  ieee : BitVec 1
  cs : BitVec 1
  cnt : BitVec 12
  deriving DecidableEq, Repr

/-- Format VM: vector, memory pipe. -/
structure FVM where
  vr : BitVec 5
  td : BitVec 6
  ro : BitVec 4
  vx : BitVec 5
  bd : BitVec 1
  ty : BitVec 2
  rm : BitVec 2
  ieee : BitVec 1
  cs : BitVec 1
  cnt : BitVec 12
  deriving DecidableEq, Repr

/-- Format VR: vector reductions and v.ext. -/
structure FVR where
  rd : BitVec 4
  ri : BitVec 4
  va : BitVec 5
  vb : BitVec 5
  tb : BitVec 2
  u : BitVec 1
  ty : BitVec 2
  rm : BitVec 2
  ieee : BitVec 1
  cs : BitVec 1
  cnt : BitVec 12
  deriving DecidableEq, Repr

/-- Format XL: mx.ldw. -/
structure FXL where
  bk : BitVec 1
  td : BitVec 6
  rt : BitVec 4
  pc : BitVec 2
  z : BitVec 26
  deriving DecidableEq, Repr

/-- Format XP: mx.pre. -/
structure FXP where
  tl : BitVec 1
  md : BitVec 1
  ty : BitVec 1
  ra : BitVec 4
  z : BitVec 32
  deriving DecidableEq, Repr

/-- Format XM: mx.mul. -/
structure FXM where
  tl : BitVec 1
  bk : BitVec 1
  t : BitVec 1
  m : BitVec 5
  r0 : BitVec 5
  q : BitVec 4
  sf : BitVec 3
  pc : BitVec 2
  pd : BitVec 1
  z : BitVec 16
  deriving DecidableEq, Repr

/-- Format XD: mx.drn. -/
structure FXD where
  tl : BitVec 1
  md : BitVec 2
  fm : BitVec 4
  un : BitVec 1
  sw : BitVec 1
  lam : BitVec 3
  td : BitVec 6
  ra : BitVec 4
  z1 : BitVec 1
  rm : BitVec 2
  ieee : BitVec 1
  rt : BitVec 4
  rx : BitVec 4
  rs : BitVec 4
  z0 : BitVec 1
  deriving DecidableEq, Repr

/-- Format SP: sp.prd. -/
structure FSP where
  tl : BitVec 1
  ra : BitVec 4
  rb : BitVec 4
  tag : BitVec 16
  z : BitVec 14
  deriving DecidableEq, Repr

/-- Format MK: mk.cap. -/
structure FMK where
  ra : BitVec 4
  rb : BitVec 4
  rc : BitVec 4
  z : BitVec 27
  deriving DecidableEq, Repr

/-- Format ST: st.req. -/
structure FST where
  q : BitVec 4
  ra : BitVec 4
  rb : BitVec 4
  rc : BitVec 4
  rd : BitVec 4
  z : BitVec 19
  deriving DecidableEq, Repr

/-- Format Q: st.pop and st.rel. -/
structure FQ where
  vd : BitVec 5
  q : BitVec 4
  kk : BitVec 12
  ty : BitVec 2
  z : BitVec 16
  deriving DecidableEq, Repr

/-- Format D: dm.go and dm.stop. -/
structure FD where
  ch : BitVec 5
  ra : BitVec 4
  z : BitVec 30
  deriving DecidableEq, Repr

/-- Format U: up.acc. -/
structure FU where
  ra : BitVec 4
  rb : BitVec 4
  rx : BitVec 4
  rd : BitVec 4
  blk : BitVec 5
  rows : BitVec 5
  nx : BitVec 1
  init : BitVec 1
  last : BitVec 1
  pb : BitVec 1
  rp : BitVec 4
  z : BitVec 5
  deriving DecidableEq, Repr

/-- Format RN: rn.drop and rn.word. -/
structure FRN where
  vd : BitVec 5
  vs : BitVec 5
  rk : BitVec 4
  rb : BitVec 4
  z1 : BitVec 3
  ty : BitVec 2
  z0 : BitVec 3
  cs : BitVec 1
  cnt : BitVec 12
  deriving DecidableEq, Repr

/-- Format PW: pw.ramp and pw.bsel. -/
structure FPW where
  ra : BitVec 4
  k : BitVec 8
  z : BitVec 27
  deriving DecidableEq, Repr

/-! ### Tensor descriptors (R250, R256) -/

/-- The 80-byte descriptor image of Table 1 of Tensor Layout and Descriptors. The 16 bytes s0–s3 hold four
strides, or mask_base and block_base of a SPARSE descriptor. -/
structure DescImg where
  base : Word
  allocBase : Word
  allocLen : Word
  aux : Word
  e0 : Word32
  e1 : Word32
  e2 : Word32
  e3 : Word32
  sLo : Word
  sHi : Word
  kind : Byte
  format : Byte
  access : Byte
  shape : Byte
  rsv : BitVec 96
  deriving DecidableEq, Repr

/-- The 96-byte validator request of R256. -/
structure DescReq where
  core : BitVec 16
  slot : Byte
  mode : Byte
  home : BitVec 16
  rsv : BitVec 80
  img : DescImg
  deriving DecidableEq, Repr

/-! ### Plan images (R67, R68)

The loader reads the image's bytes from host memory. The manual gives the header, the directory and the records of the
sections byte by byte, and for some fields and some record lists no place in their section. `ImagePlace` is the operand
that says what the bytes do not: for each directory entry where its record lists lie, and the fields without a layout. A
`PlanImage` is what the loader parses from both. -/

/-- An address of a plan image: a device address, or an offset in the slice of a plan-relative core (R63). -/
inductive PAddr where
  | abs (a : Nat)
  | rel (core : Nat) (off : Nat)
  deriving DecidableEq, Repr

/-- A curve table: points (x, v) in table order, and the count byte c of its header (R154, R155). -/
structure Curve where
  count : Nat
  points : List (Nat × Nat)
  deriving DecidableEq, Repr

/-- A stash region of the LAYOUT section (R189, R192). -/
structure StashRegion where
  core : Nat
  base : PAddr
  size : Nat
  mode : Nat
  deriving DecidableEq, Repr

/-- LAYOUT section (R37, R181, R189). -/
structure LayoutSec where
  cores : Nat
  packages : List Nat
  privileged : List Nat
  digest : Word32
  stash : List StashRegion
  deriving DecidableEq, Repr

/-- WHEEL section (R48). -/
structure WheelSec where
  entries : List (BitVec 16)
  segments : List (Nat × Nat)
  wdogLog2 : Nat
  deriving DecidableEq, Repr

/-- One task of the TASK section: the table entry of R53, the vector allocation mask of R227 and the scratch
range of R58. -/
structure TaskDef where
  arg : PAddr
  entryPc : Nat
  firstCtx : Nat
  ctxCount : Nat
  phase : Nat
  trigger : Nat
  trigSlot : Nat
  trigCount : Nat
  retryLimit : Nat
  idem : Bool
  doneEn : Bool
  doneCore : Nat
  doneSlot : Nat
  vmask : Word32
  scratch : Option (PAddr × Nat)
  deriving DecidableEq, Repr

/-- The stated point of R396. -/
structure StatedPoint where
  step : Nat
  temp : Int
  tempTol : Nat
  clkTol : Nat
  hostMax : Nat
  ballast : Nat
  deriving DecidableEq, Repr

/-- BOUND section (R64, R66, R396). -/
structure BoundSec where
  ringBase : PAddr
  ringK : Nat
  bounds : List Int
  plnBounds : FMap Int
  ingestBound : Int
  point : StatedPoint
  curves : List Curve
  curveBlockOk : Bool
  deriving DecidableEq, Repr

/-- Update record (R207 Table 3). -/
structure UpdateRec where
  valueAddr : PAddr
  bufAddr : PAddr
  stateAddr : Nat
  parkAddr : Nat
  group : Nat
  fmt : Nat
  tier3 : Bool
  planisher : Nat
  tile : Nat
  deriving DecidableEq, Repr

/-- Group table entry (R209 Table 4), FP32 fields as bit patterns. -/
structure GroupEnt where
  rule : Nat
  lrCurve : Nat
  biasCorr : Bool
  lrBase : Word32
  beta1 : Word32
  beta2 : Word32
  eps : Word32
  lambda : Word32
  trMax : Word32
  assayPeriod : Nat
  deriving DecidableEq, Repr

/-- Sweep set (R219). -/
structure SweepSet where
  firstStep : Nat
  period : Nat
  firstRec : Nat
  count : Nat
  readyAddr : Nat
  deriving DecidableEq, Repr

/-- GROUP section (R205, R207, R209, R219, R225, R441). -/
structure GroupSec where
  updates : List UpdateRec
  groups : FMap GroupEnt
  curves : List Curve
  curveBlockOk : Bool
  sweeps : List SweepSet
  vcfg : BitVec 2
  skipThr : Word32
  clipThr : Word32
  lstbl : Word
  ls : Byte
  vringBase : Nat
  vringK : Nat
  grpOff : Nat
  ringOff : Nat
  ringK : Nat
  deriving DecidableEq, Repr

/-- Work record (R151 Table 1). -/
structure WorkRec where
  valueAddr : PAddr
  maskAddr : PAddr
  listAddr : Nat
  tile : Nat
  layer : Nat
  deriving DecidableEq, Repr

/-- Layer record (R152 Table 2). -/
structure LayerRec where
  firstStep : Nat
  lastStep : Nat
  period : Nat
  level : Nat
  dropCurve : Nat
  densCurve : Nat
  init : Byte
  alpha : Word32
  listLen : Nat
  group : Nat
  blockBase : PAddr
  bcols : Nat
  deriving DecidableEq, Repr

/-- Probe-buffer record (R467). -/
structure ProbeBuf where
  valueAddr : PAddr
  scaleAddr : PAddr
  blocks : Nat
  deriving DecidableEq, Repr

/-- MASK section (R151–R155, R467). -/
structure MaskSec where
  works : List WorkRec
  layers : FMap LayerRec
  curves : List Curve
  curveBlockOk : Bool
  probes : List ProbeBuf
  deriving DecidableEq, Repr

/-- Class record of the STREAM section (R270 Table 5). -/
structure ClassRec where
  maxLen : Nat
  home : Nat
  sigSlot : Nat
  en : Bool
  bufOff : Nat
  slotStride : Nat
  bankStride : Nat
  deriving DecidableEq, Repr

/-- STREAM section header (R270 Table 4). -/
structure StreamHdr where
  window : Bool
  realTime : Bool
  batch : Nat
  manSlot : Nat
  manCore : Nat
  t0 : Int
  width : Nat
  lag : Nat
  manOff : Nat
  rejK : Nat
  phK : Nat
  rejBase : Nat
  phBase : Nat
  deriving DecidableEq, Repr

/-- A stream-queue configuration (R260) of one plan-relative core. -/
structure QueueDef where
  core : Nat
  q : Nat
  base : Nat
  depth : Nat
  esize : Nat
  en : Bool
  deriving DecidableEq, Repr

/-- A DMA channel owner (R278): island, channel and owning plan-relative core. -/
structure ChanOwner where
  island : Nat
  ch : Nat
  core : Nat
  deriving DecidableEq, Repr

/-- STREAM section (R260, R270, R278). -/
structure StreamSec where
  hdr : StreamHdr
  classes : List ClassRec
  queues : List QueueDef
  owners : List ChanOwner
  deriving DecidableEq, Repr

/-- CKPT section (R328). -/
structure CkptSec where
  firstCut : Nat
  period : Nat
  replayMax : Nat
  hw : Nat
  ringBase : Nat
  ringLen : Nat
  undoLen : Nat
  ingotOff : Nat
  ingotLen : Nat
  exclusions : List (Nat × Nat)
  frozen : List (PAddr × Nat × Nat)
  deriving DecidableEq, Repr

/-- The body of a section (Table 11 of Cores, Threads and the Planned Schedule). -/
inductive SecBody where
  | layout (b : LayoutSec)
  | code (words : List Word)
  | wheel (b : WheelSec)
  | task (tasks : List TaskDef)
  | tdesc (reqs : List DescReq)
  | bound (b : BoundSec)
  | group (b : GroupSec)
  | mask (b : MaskSec)
  | stream (b : StreamSec)
  | data (writes : List (PAddr × List Byte))
  | ckpt (b : CkptSec)
  | unknown (typ : Nat)
  deriving DecidableEq, Repr

/-- A directory entry with its section: layout 0xFF is all layouts, core 0xFFFF all cores; crcOk says that the section
lies in the image and has the CRC-32C its entry states (R68). -/
structure Section where
  layout : Nat
  core : Nat
  crcOk : Bool
  body : SecBody
  deriving DecidableEq, Repr

/-- A plan image (R67): the header's fields, whether its two checksums hold, the SHA-512 of its bytes (R386), and its
sections in directory order. -/
structure PlanImage where
  magic : Word32
  formatMajor : Byte
  formatMinor : Byte
  revision : Byte
  imageLength : Word
  layoutCount : Byte
  planId : Word
  jobSeed : Word
  headerOk : Bool
  imageOk : Bool
  imageDigest : BitVec 512
  sections : List Section
  deriving DecidableEq, Repr

/-- Of a BOUND section, what follows its curve block. -/
structure BoundPlace where
  ringBase : PAddr
  ringK : Nat
  bounds : List Int
  plnBounds : FMap Int
  ingestBound : Int
  deriving DecidableEq, Repr

/-- Of a GROUP section, the offset and number of its update records and of its sweep sets, the offset of each group table
entry it holds by group, and the register values it gives (R205, R206, R225, R441). -/
structure GroupPlace where
  updOff : Nat
  updCount : Nat
  entryOffs : FMap Nat
  sweepOff : Nat
  sweepCount : Nat
  vcfg : BitVec 2
  skipThr : Word32
  clipThr : Word32
  lstbl : Word
  ls : Byte
  vringBase : Nat
  vringK : Nat
  grpOff : Nat
  ringOff : Nat
  ringK : Nat
  deriving DecidableEq, Repr

/-- Of a MASK section, the offset and number of its work records, the offset of each layer record by layer number, and the
offset and number of its probe-buffer records (R467). -/
structure MaskPlace where
  workOff : Nat
  workCount : Nat
  layerOffs : FMap Nat
  probeOff : Nat
  probeCount : Nat
  deriving DecidableEq, Repr

/-- What the manual does not lay out of a section; of a CODE, TDESC or CKPT section it is nothing. -/
inductive SecPlace where
  | none
  | layout (b : LayoutSec)
  | wheel (b : WheelSec)
  | task (tasks : List TaskDef)
  | bound (b : BoundPlace)
  | group (b : GroupPlace)
  | mask (b : MaskPlace)
  | stream (queues : List QueueDef) (owners : List ChanOwner)
  | data (writes : List (PAddr × List Byte))
  deriving DecidableEq, Repr

/-- One SecPlace for each directory entry, in directory order. -/
abbrev ImagePlace := List SecPlace

/-! ### Operands of the other rows -/

/-- Who makes a register access (R428, R429). -/
inductive Requester where
  | hallmark
  | os (allot : Nat)
  | host (port : Nat)
  | thread (site : Nat)
  deriving DecidableEq, Repr

/-- What the error codes find when a memory unit is read (R311, R316–R318): nothing, a corrected error, an
uncorrectable error that a repeated read clears, one that stays, or an error of the LPDDR5X link. -/
inductive ReadCheck where
  | clean
  | corrected
  | transient
  | uncorrectable
  | link
  deriving DecidableEq, Repr

/-- A turn of a stream unit (R264): the core's site, and bit q set when the source path of the head request of queue q
accepts a fetch. -/
structure FetchTurn where
  site : Nat
  paths : BitVec 16
  deriving DecidableEq, Repr

/-- What a slice patrol reads (R320): the slice's site, and which 64-bit word of its next line the error code judges. -/
structure PatrolWord where
  site : Nat
  word : Nat
  deriving DecidableEq, Repr

/-- The part of a core that a state error meets, as far as R311 tells them apart. -/
inductive CoreError where
  | correctable
  | uncorrected
  deriving DecidableEq, Repr

/-- Why a device request to host memory ended without data (R345). -/
inductive HostFault where
  | timeout
  | unsupported
  | aborted
  | ideDiscarded
  | poisoned
  deriving DecidableEq, Repr

/-- The device request to host memory that a HOST_REQUEST_FAULT ends (R345): an operation of a thread in flight, the
oldest fetch of a stream queue, the weights at the head of a load path, the source or the descriptor of the channel a
DMA engine serves, the next read of the
ingest ring, the next entry of a submission queue, or a request of no unit that the manual names. -/
inductive HostReq where
  | access (site ctx sb : Nat)
  | stream (site queue : Nat)
  | loadPath (site : Nat)
  | dma (island : Nat)
  | ingest
  | submission (k : Nat)
  | other
  deriving DecidableEq, Repr

/-- A network address of the management port (R376). -/
inductive IpAddr where
  | v4 (a : BitVec 32)
  | v6 (a : BitVec 128)
  deriving DecidableEq, Repr

/-- What arrives at the management port (R376): an address request of ARP or Neighbor Discovery, an echo request, a
UDP datagram with its destination and payload, a fragment, or anything else. -/
inductive Frame where
  | resolve (target : IpAddr)
  | echo (dst : IpAddr) (data : List Byte)
  | udp (dst : IpAddr) (port : Nat) (payload : List Byte)
  | fragment
  | other
  deriving DecidableEq, Repr

/-- What Hallmark sends at the management port beside HMP: the address and the MAC address of an ARP or Neighbor
Discovery answer, or an echo reply (R376). -/
inductive NetAnswer where
  | resolved (a : IpAddr) (mac : BitVec 48)
  | echoed (a : IpAddr) (data : List Byte)
  deriving DecidableEq, Repr

/-- The header of an HMP request (R377 Table 10): tag, key slot (0xFF unsigned), nonce, and the signature of a signed
request, whose byte 0 is the low one. -/
structure Hmp where
  tag : Word32
  slot : Byte
  nonce : BitVec 256
  sig : BitVec 1056
  deriving DecidableEq, Repr

/-- The bits of an allotment record that a valid one holds as 0 (R347 Table 2, R348): flags bits 7:2, bits 3 and 7 of rows
and cols, the byte at 0x0F, and the word at 0x1C. -/
structure AllotRsv where
  flags : BitVec 6 := 0
  rows3 : Bool := false
  rows7 : Bool := false
  cols3 : Bool := false
  cols7 : Bool := false
  byte0F : Byte := 0
  word1C : Word32 := 0
  deriving DecidableEq, Repr

/-- One record of the allotment table (R347 Table 2). -/
structure AllotRec where
  port : Nat
  valid : Bool
  interleave : Bool
  row0 : Nat
  row1 : Nat
  col0 : Nat
  col1 : Nat
  packages : BitVec 16
  appCores : BitVec 16
  l2Ways : BitVec 16
  slotFirst : Nat
  slotCount : Nat
  apLog2 : Nat
  osBase : Nat
  osLen : Nat
  rsv : AllotRsv := {}
  deriving DecidableEq, Repr

/-- Parameters of one input filter, in the units of HM_FILTn_T and HM_FILTn_C (R370). -/
structure FilterPar where
  release : BitVec 24
  assert : BitVec 24
  minPulse : BitVec 16
  alertAfter : BitVec 16
  flowMin : BitVec 16
  deriving DecidableEq, Repr

/-- Network settings of SET_NET (R376). -/
structure NetCfg where
  ipv4 : BitVec 32
  ipv6 : BitVec 128
  udpPort : BitVec 16
  fec : BitVec 2
  deriving DecidableEq, Repr

/-- The outcome of one start-up step on one unit (R415, R418): Table 3 Id, unit index (0xFFFF for none),
whether it failed and with which reason and detail, the duration in µs, the cores and slices (or package)
that failed, the lines that a memory test found uncorrectable, by device address (R416), and the result digests of the
cores in a reference step, by position (R419); a core that is not listed gives the digest stored in the image. -/
structure StepResult where
  step : Nat
  unit : Nat
  failed : Bool
  reason : Nat
  detail : Word32
  duration : Word32
  cores : BitVec 16
  slices : BitVec 16
  lines : List Nat := []
  digests : FMap Word32 := []
  deriving DecidableEq, Repr

/-- A link-down event of a port, and whether it is a fall of PERST_N (R346, R450). -/
structure LinkFall where
  port : Nat
  perst : Bool
  deriving DecidableEq, Repr

/-- What a port meets when it trains (R343, R450): a link partner in flit mode, and PERST_N low. -/
structure LinkPartner where
  flit : Bool
  perstLow : Bool
  deriving DecidableEq, Repr

/-- What one run of the start-up sequence meets, apart from what State holds: the fuse values, whether LEAK_N has become
active by the time of step 0x08 (R417, R458), and the steps that do not pass. A step that is not listed passes. -/
structure StartReport where
  badSites : List Nat
  svn : Byte
  calibration : FMap (Nat × Int × Nat)
  results : List StepResult
  leak : Bool := false
  deriving DecidableEq, Repr

/-! ### The commands -/

/-- One command of the block per row of spec/opcode_table.json, in the table's order. -/
inductive Instr where
  -- control class (R299)
  | ctlNop (i : Issue) (o : FZ)
  | ctlHalt (i : Issue) (o : FZ)
  | ctlBr (i : Issue) (o : FB)
  | ctlJal (i : Issue) (o : FB)
  | ctlJr (i : Issue) (o : FB)
  | ctlWhl (i : Issue) (o : FK)
  | ctlBar (i : Issue) (o : FK)
  | ctlSig (i : Issue) (o : FK)
  | ctlSwt (i : Issue) (o : FK)
  -- scalar class (R300)
  | scAdd (i : Issue) (o : FS)
  | scSub (i : Issue) (o : FS)
  | scMul (i : Issue) (o : FS)
  | scAnd (i : Issue) (o : FS)
  | scOr (i : Issue) (o : FS)
  | scXor (i : Issue) (o : FS)
  | scShl (i : Issue) (o : FS)
  | scShr (i : Issue) (o : FS)
  | scShru (i : Issue) (o : FS)
  | scMin (i : Issue) (o : FS)
  | scMax (i : Issue) (o : FS)
  | scMinu (i : Issue) (o : FS)
  | scMaxu (i : Issue) (o : FS)
  | scLi (i : Issue) (o : FS)
  | scSli (i : Issue) (o : FS)
  | scCeq (i : Issue) (o : FS)
  | scCne (i : Issue) (o : FS)
  | scClt (i : Issue) (o : FS)
  | scCle (i : Issue) (o : FS)
  | scCltu (i : Issue) (o : FS)
  | scCleu (i : Issue) (o : FS)
  | scPset (i : Issue) (o : FS)
  | scLd (i : Issue) (o : FS)
  | scLdw (i : Issue) (o : FS)
  | scSt (i : Issue) (o : FS)
  | scStw (i : Issue) (o : FS)
  | scFlg (i : Issue) (o : FS)
  | scFlgc (i : Issue) (o : FS)
  | scCsr (i : Issue) (o : FS)
  -- vector class (R303)
  | vAdd (i : Issue) (o : FV)
  | vSub (i : Issue) (o : FV)
  | vMul (i : Issue) (o : FV)
  | vFma (i : Issue) (o : FV)
  | vMax (i : Issue) (o : FV)
  | vMin (i : Issue) (o : FV)
  | vAbs (i : Issue) (o : FV)
  | vNeg (i : Issue) (o : FV)
  | vDiv (i : Issue) (o : FV)
  | vSqrt (i : Issue) (o : FV)
  | vExp2 (i : Issue) (o : FV)
  | vLog2 (i : Issue) (o : FV)
  | vIadd (i : Issue) (o : FV)
  | vIsub (i : Issue) (o : FV)
  | vImul (i : Issue) (o : FV)
  | vAnd (i : Issue) (o : FV)
  | vOr (i : Issue) (o : FV)
  | vXor (i : Issue) (o : FV)
  | vShl (i : Issue) (o : FV)
  | vShr (i : Issue) (o : FV)
  | vShru (i : Issue) (o : FV)
  | vCvt (i : Issue) (o : FV)
  | vCeq (i : Issue) (o : FV)
  | vCne (i : Issue) (o : FV)
  | vClt (i : Issue) (o : FV)
  | vCle (i : Issue) (o : FV)
  | vCgt (i : Issue) (o : FV)
  | vCge (i : Issue) (o : FV)
  | vCun (i : Issue) (o : FV)
  | vSel (i : Issue) (o : FV)
  | vPack (i : Issue) (o : FV)
  | vUnpk (i : Issue) (o : FV)
  | vPerm (i : Issue) (o : FV)
  | vBcast (i : Issue) (o : FV)
  | vTr32 (i : Issue) (o : FV)
  | vIns (i : Issue) (o : FV)
  | vLd (i : Issue) (o : FVM)
  | vSt (i : Issue) (o : FVM)
  | vGth (i : Issue) (o : FVM)
  | vSct (i : Issue) (o : FVM)
  | vSadd (i : Issue) (o : FVM)
  | vSum (i : Issue) (o : FVR)
  | vSsq (i : Issue) (o : FVR)
  | vDot (i : Issue) (o : FVR)
  | vRmax (i : Issue) (o : FVR)
  | vRmin (i : Issue) (o : FVR)
  | vMv (i : Issue) (o : FVR)
  | vCnt (i : Issue) (o : FVR)
  | vExt (i : Issue) (o : FVR)
  -- matrix array, Teasel and Vetch (R305)
  | mxLdw (i : Issue) (o : FXL)
  | mxPre (i : Issue) (o : FXP)
  | mxMul (i : Issue) (o : FXM)
  | mxDrn (i : Issue) (o : FXD)
  | spPrd (i : Issue) (o : FSP)
  | mkCap (i : Issue) (o : FMK)
  -- streams, DMA, reduction, random masks and power (R307)
  | stReq (i : Issue) (o : FST)
  | stPop (i : Issue) (o : FQ)
  | stRel (i : Issue) (o : FQ)
  | dmGo (i : Issue) (o : FD)
  | dmStop (i : Issue) (o : FD)
  | upAcc (i : Issue) (o : FU)
  | upFin (i : Issue) (o : FZ)
  | rnDrop (i : Issue) (o : FRN)
  | rnWord (i : Issue) (o : FRN)
  | pwRamp (i : Issue) (o : FPW)
  | pwBsel (i : Issue) (o : FPW)
  -- events of a core
  | taskStart (site : Nat)
  | triggerFire (site task : Nat)
  | wheelWatchdog (site : Nat)
  | signalDelivery (index : Nat)
  | memoryAccessComplete (site ctx sb : Nat) (check : ReadCheck)
  | tileLoadComplete (site : Nat) (check : ReadCheck)
  | drainStart (site tile : Nat)
  | overflowReplay (site tile : Nat)
  | drainComplete (site tile : Nat)
  | predictedTileOpen (site tile : Nat)
  | streamEntryFetch (turn : FetchTurn)
  | streamEntryPresent (site queue : Nat) (check : ReadCheck)
  | vectorComplete (site : Nat)
  | dmaDescriptor (island : Nat) (check : ReadCheck)
  | dmaChGo (who : Requester) (island ch : Nat)
  | dmaChStop (who : Requester) (island ch : Nat)
  -- reduction, update and mask evolution
  | upAccApply (site ctx sb : Nat) (check : ReadCheck)
  | reductionReport (allot index : Nat)
  | endOfReductionMark (allot index : Nat)
  | verdict (allot : Nat)
  | planisherTileUpdate (pkg : Nat) (check : ReadCheck)
  | clearPass (pkg : Nat)
  | trustRatio (allot : Nat)
  | planisherUpdateCompletion (pkg : Nat)
  | captureComplete (island : Nat) (check : ReadCheck)
  | vetchTileEvolve (island : Nat) (check : ReadCheck)
  | changeList (pkg : Nat) (check : ReadCheck)
  | vetchTileWrite (island : Nat)
  | stepBoundary (allot : Nat)
  | cutConsistent (allot : Nat)
  | pageUndoCopy (allot page : Nat)
  | plannedFence (site : Nat)
  | replayStartMark (island : Nat)
  | planStartMark (island : Nat)
  | stepMark (island : Nat)
  | boundaryMark (island : Nat)
  | phaseTimeRecordWrite (unit phase : Nat)
  -- ingest and host queues
  | ingestRecord (port : Nat)
  | closeRecord (port : Nat)
  | ingProdWrite (who : Requester) (port : Nat) (value : Word)
  | ingCfgWrite (who : Requester) (port size half : Nat) (value : Word)
  | sqTailDoorbell (who : Requester) (port k size half : Nat) (value : Word)
  | cqHeadWrite (who : Requester) (port k size half : Nat) (value : Word)
  | loadPlan (port sq : Nat) (places : ImagePlace)
  | unload (port sq : Nat)
  | stop (port sq : Nat)
  | resume (port sq : Nat)
  | exportCut (port sq : Nat)
  | restart (port sq : Nat) (places : ImagePlace)
  | wallMark (port sq : Nat)
  | query (port sq : Nat)
  | ingotExpGo (who : Requester) (allot size half : Nat) (value : Word)
  | exportEnd (allot : Nat)
  | validatorRequest (who : Requester) (allot size half : Nat) (value : Word)
  -- register accesses
  | loaderAliasWrite (who : Requester) (addr size : Nat) (value : Word)
  | tableWindowWrite (who : Requester) (addr size : Nat) (value : Word)
  | rcRegisterRead (who : Requester) (addr size : Nat)
  | registerWrite (who : Requester) (addr size : Nat) (value : Word)
  | mbxWdogWrite (who : Requester) (allot size half : Nat) (value : Word)
  | osWatchdogExpiry (allot : Nat)
  -- host ports
  | hostApertureAccess (port offset length : Nat) (write : Option (List Byte))
  | hostRequestFault (port : Nat) (req : HostReq) (kind : HostFault)
  | ideStreamInsecure (port stream : Nat)
  | functionLevelReset (port : Nat)
  | hotReset (port : Nat)
  | linkDown (fall : LinkFall)
  | d3hotEntry (port : Nat)
  | doeSpdmMessage (port : Nat) (msg : List Byte)
  -- Hallmark
  | networkFrame (f : Frame)
  | ident (h : Hmp)
  | getNonce (h : Hmp) (slot : Nat)
  | readSensors (h : Hmp) (first count : Nat)
  | readLog (h : Hmp) (seq : Nat) (count : Nat)
  | alertClear (h : Hmp)
  | getAllot (h : Hmp)
  | setAllot (h : Hmp) (table : List AllotRec)
  | checkpoint (h : Hmp)
  | fence (h : Hmp)
  | setEnvelope (h : Hmp) (slew floor : Nat)
  | setFilter (h : Hmp) (n : Nat) (par : FilterPar)
  | setNet (h : Hmp) (net : NetCfg)
  | setThresh (h : Hmp) (id : Nat) (warn : Int)
  | fwStage (h : Hmp) (offset : Nat) (data : List Byte)
  | fwVerify (h : Hmp) (body : List Byte)
  | fwActivate (h : Hmp)
  | fwSelfTestResult (passed : Bool)
  | fwSvnCommit (h : Hmp)
  | keySet (h : Hmp) (slot role : Nat) (key : BitVec 1064)
  | keyRevoke (h : Hmp) (slot : Nat)
  | spdm (h : Hmp) (msg : List Byte)
  | jtagUnlock (h : Hmp) (claim sig : List Byte)
  -- start-up and reset
  | moduleReset (h : Hmp) (report : StartReport)
  | computeReset (h : Hmp) (report : StartReport)
  | hallmarkReset (h : Hmp) (report : StartReport)
  | hallmarkWatchdogExpiry (report : StartReport)
  | journalRestart (report : StartReport)
  | startupStepLimit (step unit : Nat) (report : StartReport)
  -- inputs, sensors, clocks and power
  | inputFilterEnter (n : Nat)
  | inputFilterLeave (n : Nat)
  | inputHeldAlert (n : Nat)
  | flowWindow (window : Unit)
  | sensorSample (id : Nat) (reading : Option Int)
  | throttleStepUp (island : Nat)
  | clockStepSwitch (island : Nat)
  | governorTick (draw : FMap Nat)
  | rampComplete (island : Nat)
  | idleWindDown (island : Nat)
  | islandClockLoss (island : Nat)
  | handshakeTimeout (island : Nat)
  | droopBeyondLimit (island : Nat)
  | coreStateError (site : Nat) (kind : CoreError)
  | memoryControllerFault (pkg : Nat)
  | spineFault (allot : Nat)
  | logIntake
  | sliceScrubRead (patrol : PatrolWord) (check : ReadCheck)
  | packageScrubRead (pkg : Nat) (check : ReadCheck)
  | railFault (rail : Nat)
  | thermalTrip (sensor : Nat)
  | thermtripTurnOff
  -- supply
  | enJoined
  | inputPowerGood (report : StartReport)
  | inrushTimeout
  | inrushRetry
  | inputLoss
  | overVoltage
  | linkTraining (port : Nat) (width rate : Nat) (partner : LinkPartner)
  | inputTurnOn
  | clockStretch (island : Nat)
  | inputSample (n : Nat) (low : Bool)
  deriving DecidableEq, Repr

end Sys2Proof
end

