-- ==== Sys2Proof/Decode.lean ====
section
/-! DEFINITION. The command table gives no row any bits, so no word spells a command. The instruction words of the
code store have their own decoder in Machine/Encode.lean. -/

namespace Sys2Proof

/-- The command that a word of nbits spells by the table's bits: the table has none. -/
def decodeTableWord (_nbits _w : Nat) : Option Instr := none

end Sys2Proof
end

