-- ==== Sys2Proof/Config.lean ====
section
/-! DEFINITION. What one module fixes and the manual does not, as constants without a body: no proof can see a
value of theirs. Each is named in the assumption log. -/

namespace Sys2Proof.Config

/-- A fresh 64-bit value for the n-th use: values the manual leaves open while the machine goes on. -/
opaque freeWord : Nat → BitVec 64

/-- A fresh 256-bit nonce from the DRBG (R378). -/
opaque freshNonce : Nat → BitVec 256

/-- Which split the piece belongs to that the pc field 3 of the instruction at a program counter names (R97, R98): true is
lo of split2, false lo of split3. -/
opaque loOfSplit2 : Nat → Bool

/-- The SHA-512 digests of R386 that no rule gives: mask ROM (1) and recovery loader (2). -/
opaque digest : Nat → BitVec 512

/-- The per-message secret of a signature that the crypto engine makes (R377). -/
opaque signSecret : List Byte → Nat

/-- The selective IDE stream that a device request to a host address of a port is associated with, and the one of a host
request at an offset of BAR 0 or 2; above 1 stands for none (R343). -/
opaque ideStream : Nat → Nat → Nat
opaque ideInbound : Nat → Nat → Nat → Nat

/-- The reason and the detail word of a load that fails because a write of the plan loader meets an address fault: Table 12
gives them none (R70). -/
opaque loadFaultReason : BitVec 16
opaque loadFaultDetail : BitVec 32

/-- How long HMP and mailbox requests go unanswered after FW_ACTIVATE, in Hallmark cycles (R381: up to 500 ms). -/
opaque restartCycles : Nat

/-- The firmware image in flash as it stands at manufacture, by offset, and the fuses of the device secret and of the
firmware-key hash (R364, R380, R384). -/
opaque flashImage : List (Nat × BitVec 8)
opaque deviceSecret : BitVec 512
opaque fwKeyHash : BitVec 512

/-- The resident operating system image: which section of the firmware image's body it is, the manual does not say
(R415). -/
opaque osSection : List (BitVec 8) → List (BitVec 8)

/-- The result digest of the reference step that the firmware image stores (R419), by the image's bytes. -/
opaque refDigest : List (BitVec 8) → BitVec 32

/-- What the fused calibration adds to the nominal voltage of a clock step, in mV, before the limit of ±30 mV (R395). -/
opaque stepTrim : Nat → Int

/-- The planned level in mW to which a gated island is raised before its test at start-up (R415). -/
opaque testLevel : Nat → Nat

/-- The signature that an SPDM answer carries, by the bytes before it: R385 gives no transcript. And the parameters of a
CAPABILITIES answer that Table 15 does not give: CTExponent, DataTransferSize and MaxSPDMmsgSize; and the exchange data
and random numbers of a KEY_EXCHANGE_RSP. -/
opaque spdmSign : List (BitVec 8) → BitVec 1056
opaque spdmCtExponent : BitVec 8
opaque spdmSizes : BitVec 64
opaque spdmExchange : Nat → BitVec 2048

/-- The serial number and the MAC address in the module data EEPROM (R364, Table 13 of Hallmark). -/
opaque serial : BitVec 128
opaque macAddr : BitVec 48

end Sys2Proof.Config
end

