-- ==== Sys2Proof/Machine/State.lean ====
section
/-! DEFINITION. The state of the whole module as plain data, unit by unit, and its value after reset. A register
the manual lays out as a word that software reads or writes whole is kept as that word; every other piece of
state is a field of its own. -/

namespace Sys2Proof.Machine

/-- Raised by no command of a well-formed sender: a command that names a unit the module does not have (a site above
575, an island above 35, a package above 11, a port or allotment above 7). Safe: the model stops where no hardware
behaviour exists. -/
inductive Fault where
  /-- A command names a unit outside the numbering of R12–R15. Raised by every meaning that takes a unit number;
  safe. -/
  | noSuchUnit
  deriving DecidableEq, Repr

/-- Why a command has no meaning. -/
inductive Refusal where
  /-- The command's row has no meaning in this model yet. Raised by an arm of exec only; safe. -/
  | notModelled (mnemonic : String)
  deriving DecidableEq, Repr

/-! ### Threads, tasks and signals (Cores, Threads and the Planned Schedule) -/

/-- R44. -/
inductive CtxState where
  | unused
  | active
  | halted
  deriving DecidableEq, Repr

/-- A thread context (R44). Scalar registers that are not listed hold 0; bit k of sbs is 1 while sbk is pending;
waiting is the barrier register the thread is parked on. -/
structure Thread where
  st : CtxState := .unused
  pc : BitVec 14 := 0
  regs : FMap Word := []
  preds : BitVec 8 := 0
  sbs : BitVec 8 := 0
  flags : BitVec 5 := 0
  waiting : Option Nat := none
  deriving DecidableEq, Repr

/-- The dynamic state of a task-table entry: whether a start of it runs, the step it keys with (s2), a firing
that has not started, the retries used (R58), and the loader's facts about it (R227, R58). -/
structure TaskRun where
  live : Bool := false
  step : Word := 0
  pending : Option Word := none
  restart : Option Word := none
  retries : Nat := 0
  vmask : Word32 := 0
  scratch : Option (Nat × Nat) := none
  deriving DecidableEq, Repr

/-- A barrier register (R59): arrivals, the task they come from, and the waiting contexts. -/
structure Barrier where
  count : Nat := 0
  task : Nat := 0
  waiters : List Nat := []
  deriving DecidableEq, Repr

/-- A signal slot (R60, R62). -/
structure Slot where
  count : Nat := 0
  step : Word := 0
  deriving DecidableEq, Repr

/-- A signal on its way (R60–R62). src numbers the sender, so that signals of one sender to one slot keep their
order; it is delivered once none of the operations `after` of core srcSite is in flight. -/
structure Signal where
  src : Nat
  srcSite : Nat
  after : List Nat
  dst : Nat
  slot : Nat
  n : Nat
  step : Word
  deriving DecidableEq, Repr

/-! ### In-flight operations of a core -/

/-- The key of stochastic rounding (R83): layer and slot from s15, and the step number. -/
structure SrKey where
  seed : Word := 0
  layer : BitVec 16 := 0
  slot : BitVec 8 := 0
  step : Word := 0
  deriving DecidableEq, Repr

/-- The memory-pipe instructions (R234, R240). -/
inductive VMemOp where
  | ld
  | st
  | gth
  | sct
  | sadd
  deriving DecidableEq, Repr

/-- A vector memory operation between issue and completion, with everything it read at issue. -/
structure VMem where
  op : VMemOp
  vr : Nat
  desc : DescImg
  off : Nat
  idx : List Int
  n : Nat
  ty : Nat
  rm : Nat
  ieee : Bool
  data : List Word32
  key : SrKey
  deriving DecidableEq, Repr

/-- An up.acc between issue and application (R197, R309). -/
structure UpAcc where
  src : Nat
  srcScale : Nat
  sx : Option Nat
  dst : Nat
  dstScale : Nat
  blk : Nat
  rows : Nat
  init : Bool
  last : Bool
  probe : Bool
  step : Word
  deriving DecidableEq, Repr

/-- What an operation with a scoreboard entry does when it completes. -/
inductive OpKind where
  | load (rd addr : Nat) (w32 : Bool)
  | store (addr : Nat) (data : List Byte)
  | vmem (v : VMem)
  | pop (vd addr bytes ty q : Nat)
  | upAcc (u : UpAcc)
  | capture
  deriving DecidableEq, Repr

/-- An operation in flight (R46): its number in the core, its thread, task, scoreboard entry, which is 8 once the task
has started again (R45), and the program counter of its instruction (R57). Once an entry of the window table changes,
win is the table as it stood at issue (R351). -/
structure MemOp where
  id : Nat
  ctx : Nat
  sb : Nat
  task : Nat
  pc : Nat
  write : Bool
  kind : OpKind
  win : Option (FMap Word) := none
  deriving DecidableEq, Repr

/-- An arithmetic-pipe instruction between issue and result (R228, R245): the elements and the scalar register
it writes, the flags it sets and the lanes VEC_LANE counts. -/
structure VecOp where
  ctx : Nat
  vd : Option Nat
  elems : FMap Word32
  sd : Option (Nat × Word)
  flags : BitVec 5
  lanes : Nat
  deriving DecidableEq, Repr

/-! ### Streams (Streams, Prefetch and DMA) -/

/-- An open request (R261, R263). -/
structure StReq where
  ctx : Nat
  sb : Nat
  task : Nat
  pc : Nat
  phase : Nat
  own : Word
  step : Word
  src : Nat
  count : Nat
  stride : Int
  deadline : Int
  fetched : Nat
  present : Nat
  deriving DecidableEq, Repr

/-- An entry's life in the ring (R261, R262). -/
inductive EntryState where
  | fetching
  | present
  | taken
  | released
  deriving DecidableEq, Repr

/-- A ring entry: its ring position, its source address, its state and the task it belongs to (R56). Tile is the
accumulator tile whose drain releases it; win is as for MemOp, while the entry is fetched. -/
structure QEntry where
  pos : Nat
  src : Nat
  st : EntryState
  task : Nat
  tile : Option Nat
  flushed : Bool
  win : Option (FMap Word) := none
  deriving DecidableEq, Repr

/-- A stream queue (R260–R262): STQ_CFG, open requests oldest first, occupied ring entries in ring order, the
ring position of the next fetch, and the miss count. -/
structure Queue where
  cfg : Word := 0
  reqs : List StReq := []
  ring : List QEntry := []
  next : Nat := 0
  misses : Nat := 0
  deriving DecidableEq, Repr

/-! ### The matrix array (The Matrix Array and Its Accumulators) -/

/-- Where a bank's weights come from (R103, R120). -/
structure LoadSrc where
  desc : DescImg
  tile : Nat
  piece : Nat
  deriving DecidableEq, Repr

/-- A weight bank (R100, R132): the operand format (none before any load), level N, the valid cells 32s + c with
value bits and selection, and whether it is an empty bank. -/
structure Bank where
  fmt : Option Nat := none
  level : Nat := 8
  cells : FMap (Word32 × Nat) := []
  empty : Bool := true
  loading : Bool := false
  src : Option LoadSrc := none
  deriving DecidableEq, Repr

/-- R104 Table 1. -/
inductive TileState where
  | empty
  | opened
  | draining
  | replaying
  deriving DecidableEq, Repr

/-- A record entry (R120). rows holds the slice addresses of the streamed entries that entered, with their row. -/
structure RecEnt where
  src : Option LoadSrc
  bank : Nat
  t : Bool
  sf : Nat
  piece : Nat
  r0 : Nat
  m : Nat
  rows : List (Nat × Nat)
  deriving DecidableEq, Repr

/-- A preload (R105): source address, row broadcast, element type. -/
structure PreSrc where
  addr : Nat
  bcast : Bool
  int : Bool
  deriving DecidableEq, Repr

/-- A predict register or the copy a predicted tile holds (R143, R144). -/
structure Pred where
  mask : Word32
  audit : Bool
  tau : Word32
  layer : Nat
  slot : Nat
  thr : Nat
  scoreAddr : Nat
  deriving DecidableEq, Repr

/-- An mx.drn that has issued (R107, R176, R306). -/
structure Drain where
  ctx : Nat
  sb : Nat
  task : Nat
  pc : Nat
  opId : Nat
  o : FXD
  ra : Nat
  rs : Nat
  rx : Nat
  td : Option DescImg
  tile : Nat
  key : SrKey
  deriving DecidableEq, Repr

/-- An accumulator tile with its record and its half of TILE_STAT (R104, R120, R126). -/
structure Tile where
  st : TileState := .empty
  int : Bool := false
  elems : FMap Word32 := []
  recs : List RecEnt := []
  pre : Option PreSrc := none
  task : Nat := 0
  cnt : Nat := 0
  replays : Nat := 0
  sx : Int := 0
  scaleLog2 : Nat := 4
  lim : Nat := 3
  repVoid : Bool := false
  boundVoid : Bool := false
  sat : Bool := false
  ovf : Bool := false
  nan : Bool := false
  inf : Bool := false
  sticky : Bool := false
  discard : Bool := false
  cvt : BitVec 4 := 0
  drain : Option Drain := none
  pred : Option Pred := none
  deriving DecidableEq, Repr

/-- A transfer on the load path (R103): mx.ldw, mx.pre or sp.prd, served in issue order. -/
inductive LoadKind where
  | weights (bank : Nat) (src : LoadSrc)
  | preload (tile : Nat) (src : PreSrc)
  | predict (tile scoreAddr recAddr : Nat) (tag : BitVec 16) (step : Word)
  deriving DecidableEq, Repr

/-- A transfer with its thread, task, scoreboard entry and the program counter of its instruction; win is as for
MemOp. -/
structure LoadOp where
  ctx : Nat
  sb : Nat
  task : Nat
  pc : Nat
  kind : LoadKind
  win : Option (FMap Word) := none
  deriving DecidableEq, Repr

/-! ### Phase-time accounting (R64, R266, R267) -/

/-- The part of one phase of one step that a unit has run. Counts are the unit's cycle counts; clock, temperature,
power state and CAL_STALE are those at its end. -/
structure PhaseAcc where
  step : Word
  phase : Nat
  start : Nat
  stop : Nat
  replays : Nat := 0
  issued : Bool := false
  ended : Bool := false
  smiss : Nat := 0
  late : Int := 0
  mhz : Nat := 0
  temp : Int := 0
  pst : Nat := 0
  stale : Bool := false
  deriving DecidableEq, Repr

/-- A completed stream request whose origin mark has not arrived (R263): the island count at which its last entry
became present. -/
structure Unjudged where
  q : Nat
  phase : Nat
  own : Word
  step : Word
  present : Word
  deadline : Int
  deriving DecidableEq, Repr

/-! ### A core -/

/-- The state of a core. `ident` holds what the loader alias has set of the site, island and position of CORE_ID (R433). -/
structure Core where
  threads : FMap Thread := []
  code : FMap Word := []
  codeFill : Word := 0
  wheel : FMap (BitVec 16) := []
  segs : FMap Word := []
  cursor : BitVec 12 := 0
  left : Nat := 0
  waited : Nat := 0
  segNext : Nat := 8
  segment : Nat := 0
  stall : Bool := false
  hold : Bool := true
  wdogLog2 : Nat := 30
  tasks : FMap (BitVec 128) := []
  runs : FMap TaskRun := []
  taskFlt : Word := 0
  bars : FMap Barrier := []
  slots : FMap Slot := []
  binding : FMap (BitVec 16) := []
  vregs : FMap Word32 := []
  inflight : List MemOp := []
  nextOp : Nat := 0
  vArith : List VecOp := []
  queues : FMap Queue := []
  tds : FMap DescImg := []
  bank0 : Bank := {}
  bank1 : Bank := {}
  ta : Tile := {}
  tb : Tile := {}
  loadPath : List LoadOp := []
  predA : Option Pred := none
  predB : Option Pred := none
  mxCfg : Word := 0x43
  spFlt : Word := 0
  spFltWord : Word := 0
  prdFbStep : Word := 0xFFFFFFFFFFFFFFFF
  prdFb : FMap Word := []
  prdCnt : FMap Word := []
  prdInfo : FMap (Nat × Nat) := []
  cdrn : Word32 := 0
  priv : Bool := false
  lscale : Word := 0x10FFFFFFFFFFFFFF
  vecOob : Word := 0
  vecLane : Word32 := 0
  phaseRing : Word := 0x1000000000000000
  misses : Word32 := 0
  head : Word32 := 0
  phases : List PhaseAcc := []
  unjudged : List Unjudged := []
  bound : Bool := false
  rel : Nat := 0
  fenced : Bool := false
  ident : Option Word := none
  accOut : Nat := 0
  deriving DecidableEq, Repr

/-! ### A compute island -/

/-- The marks of R393 on their way to an island. -/
inductive Mark where
  | step (n : Word)
  | boundary (n : Word)
  | planStart
  | replayStart (n : Word)
  deriving DecidableEq, Repr

/-- DMA channel states (Table 16 of Streams, Prefetch and DMA). -/
inductive ChanState where
  | idle
  | ready
  | running
  deriving DecidableEq, Repr

/-- The dm.go that started a channel: its site, context, scoreboard entry, task and program counter. The entry is 8 once
the task has aborted, and 9 once it has started again. -/
structure Starter where
  site : Nat
  ctx : Nat
  sb : Nat
  task : Nat
  pc : Nat
  deriving DecidableEq, Repr

/-- A DMA channel (R278–R282). -/
structure Chan where
  owner : BitVec 16 := 0xFFFF
  irqMore : BitVec 8 := 0
  ending : BitVec 3 := 0
  st : ChanState := .idle
  goLost : Bool := false
  stopReq : Bool := false
  next : Word := 0
  starter : Option Starter := none
  step : Word := 0
  readyAt : Word := 0
  deriving DecidableEq, Repr

/-- Vetch's stages for the tile it is working on (R163–R168). -/
inductive VetchStage where
  | idle
  | sent
  | returned
  deriving DecidableEq, Repr

/-- A change list (R166): the update record of its tile, the moved slot pairs, the slots of pruned positions, the new
slots with scale and element, and ls. -/
structure ChangeList where
  tile : Nat
  moved : List (Nat × Nat)
  retired : List Nat
  grown : List (Nat × Int × BitVec 16)
  ls : Int
  deriving DecidableEq, Repr

/-- A capture handed over by mk.cap (R156). -/
structure Capture where
  site : Nat
  ctx : Nat
  sb : Nat
  opId : Nat
  work : Nat
  valueAddr : Nat
  scaleAddr : Nat
  step : Word
  deriving DecidableEq, Repr

/-- The tile Vetch is changing: work index, changed mask words, freed slots, its change list and the working copies the
Planisher returns. -/
structure Evolve where
  work : Nat
  masks : List (Nat × Word)
  freed : List Nat
  changes : ChangeList
  copies : FMap Word32
  deriving DecidableEq, Repr

/-- A Vetch unit (R148, R160, R172). Works lists the indices of its work records in list order; statSet holds VETCH_STAT
as it was last written, beside what the unit's work showed in it then. -/
structure Vetch where
  works : List Nat := []
  pendingTiles : List Nat := []
  captures : List Capture := []
  evolving : Option Evolve := none
  stage : VetchStage := .idle
  step : Word := 0
  captured : List (Nat × Word) := []
  statStep : Word := 0xFFFFFFFFFFFFFFFF
  phaseOn : Bool := false
  illegal : Bool := false
  short : Bool := false
  noList : Bool := false
  skipped : Bool := false
  cnts : FMap Word := []
  statSet : Option (Word × Word) := none
  deriving DecidableEq, Repr

/-- A ramp or a wind-down of a gated island's planned level (R400, R403). -/
structure Ramp where
  from_ : Nat
  target : Nat
  curve : Option Curve
  tick : Nat
  windDown : Bool
  owner : Option (Nat × Nat × Nat)
  issued : Word × Nat := (0, 0)
  deriving DecidableEq, Repr

/-- The governor's view of one gated island, and its estimator (R398–R403). -/
structure GovIsland where
  rest : Nat := 0
  planned : Nat := 0
  allowed : Nat := 0
  estimate : Nat := 0
  ballast : Nat := 0
  ramp : Option Ramp := none
  idleTicks : Nat := 0
  floorTarget : Option Nat := none
  gateClosed : Bool := false
  bsel : Nat := 256
  deriving DecidableEq, Repr

structure Island where
  cntBase : Word := 0
  mark0 : Word := 0
  mark1 : Word := 0
  mark2 : Word := 0
  wall0 : Word := 0
  wall1 : Word := 0
  oppTemp : BitVec 8 := 0x55
  oppTol : BitVec 8 := 0x0A
  oppClkTol : BitVec 8 := 0
  staleCnt : BitVec 16 := 0
  calStep : BitVec 4 := 0
  calTemp : BitVec 8 := 0
  calRest : Word32 := 0
  step : Nat := 0
  planStep : Nat := 0
  capStep : Nat := 0
  relock : Option Nat := none
  calStale : Bool := false
  stretched : Word32 := 0
  faultMv : BitVec 16 := 0x78
  stretchMv : BitVec 16 := 0x32
  temp0 : BitVec 16 := 0
  temp1 : BitVec 16 := 0
  vmin : BitVec 16 := 0
  clockLost : Bool := false
  marks : List Mark := []
  origins : List (Word × Word) := []
  chans : FMap Chan := []
  readyOrder : List Nat := []
  irq : Word32 := 0
  irqEn : Word32 := 0
  irqErr : Word32 := 0
  vetch : Vetch := {}
  spillBytes : Word := 0
  spillDense : Word := 0
  ecc : FMap Word := []
  sliceFence : BitVec 16 := 0
  tested : BitVec 16 := 0
  coreFence : BitVec 16 := 0
  scrubPasses : Word32 := 0
  ceLim : BitVec 16 := 0x1000
  scrubK : BitVec 5 := 0x10
  inj : Word := 0
  scrubPos : FMap Nat := []
  ceSeen : List Nat := []
  ceLast : List Nat := []
  planFence : List Nat := []
  gov : GovIsland := {}
  deriving DecidableEq, Repr

/-! ### A memory-controller island and its Planisher -/

/-- A pass of a Planisher (R211, R215). -/
inductive PassKind where
  | none
  | update
  | clear
  deriving DecidableEq, Repr

/-- The verdict message (R204). -/
structure VerdictMsg where
  step : Word
  outcome : Nat
  factor : Word32
  ls : Int
  lsNext : Int
  sweep : Word
  deriving DecidableEq, Repr

structure Package where
  rate : BitVec 16 := 0
  temp : BitVec 8 := 0
  selfRef : Bool := false
  fenced : Bool := false
  withheld : Bool := false
  alt : Bool := false
  grpBase : Word := 0
  ring : Word := 0x1000000000000000
  ringHead : Nat := 0
  pass : PassKind := .none
  waiting : Bool := true
  clearOnly : Bool := false
  changes : List (Nat × ChangeList) := []
  msg : Option VerdictMsg := none
  todo : List Nat := []
  mism : Word32 := 0
  assayed : Word32 := 0
  spares : Nat := 0
  ue : Nat := 0
  link : Nat := 0
  ce : Word32 := 0
  cePass : Nat := 0
  scrubPasses : Word32 := 0
  ceLim : BitVec 16 := 0x4000
  scrubK : BitVec 5 := 0x08
  inj : Word := 0
  scrubPos : Nat := 0
  ceSeen : List Nat := []
  ceLast : List Nat := []
  origins : List (Word × Word) := []
  phases : List PhaseAcc := []
  gov : GovIsland := {}
  deriving DecidableEq, Repr

/-! ### An allotment: its spine partition, plan, Ingot and ingest -/

/-- R350. -/
inductive AllotState where
  | unbound
  | idle
  | loaded
  | stopped
  deriving DecidableEq, Repr

/-- A loaded plan with everything resolved to device addresses (R63, R69). Sites maps plan-relative numbers to
sites; loadSites are the good sites of the allotment when the plan was loaded (R326). -/
structure Plan where
  img : PlanImage
  layout : Nat
  cores : Nat
  packages : List Nat
  sites : List Nat
  loadSites : List Nat
  updates : List UpdateRec
  works : List WorkRec
  layers : FMap LayerRec
  maskCurves : List Curve
  probes : List ProbeBuf
  groups : FMap GroupEnt
  groupCurves : List Curve
  sweeps : List SweepSet
  stream : StreamSec
  ckpt : Option CkptSec
  point : StatedPoint
  boundCurves : List Curve
  plnBounds : FMap Int
  ingestBound : Int
  deriving DecidableEq, Repr

/-- A report of an up.acc (R200): q as an FP32 pattern. -/
structure Report where
  core : Nat
  step : Word
  probe : Bool
  nf : Bool
  q : Word32
  deriving DecidableEq, Repr

/-- The predictor counts of a slot (R146): layer, audited, misses and threshold. -/
structure PredCount where
  layer : Nat
  audited : Nat
  misses : Nat
  thr : Nat
  deriving DecidableEq, Repr

/-- A core's predictor counts of a step (R146). -/
structure PredReport where
  core : Nat
  step : Word
  counts : List PredCount
  deriving DecidableEq, Repr

/-- An exact accumulator of the spine (R202): units of 2^−149, and the non-finite flags. -/
structure ExactAcc where
  sum : Nat := 0
  nan : Bool := false
  inf : Bool := false
  deriving DecidableEq, Repr

/-- A record of the replay ring (R335): its offset, its bytes, its step and its kind. -/
structure RingRec where
  off : Nat
  len : Nat
  step : Word
  kind : Nat
  deriving DecidableEq, Repr

/-- A cut (R330, R332): its header fields and its slot, 0 A or 1 B. -/
structure Cut where
  step : Word
  epoch : Nat
  layout : Nat
  ls : Int
  clean : Nat
  fb : List Word
  window : Int
  ringPos : Nat
  slot : Nat
  deriving DecidableEq, Repr

/-- An undo log of one epoch (R331): page number and prior contents, oldest first, with the poisoned lines. -/
structure UndoLog where
  pages : List (Nat × List Host.Cell × List Nat) := []
  bytes : FMap Nat := []
  deriving DecidableEq, Repr

/-- Ingot's state for one allotment (R328–R342). `lost` speaks of the cut the current undo slot serves, `lostPrev` of the
one before it while a cut is being taken; `fenceReady` lists the sites whose planned fence is due (R325). -/
structure Ingot where
  replays : Nat := 0
  skipped : Nat := 0
  forced : Nat := 0
  run : Nat := 0
  lost : Bool := false
  lostPrev : Bool := false
  replaying : Bool := false
  cutting : Bool := false
  ringWait : Bool := false
  exporting : Bool := false
  slot : Nat := 0
  none_ : Bool := true
  cutStep : Word := 0xFFFFFFFFFFFFFFFF
  expAddr : Word := 0
  expStatus : Nat := 0
  expCmd : Option (Nat × Nat) := none
  cfg : Word := 0x83
  epoch : Nat := 0
  forcedPending : Bool := false
  cut : Option Cut := none
  taking : Option Cut := none
  baseDone : Bool := false
  undo : UndoLog := {}
  undoPrev : UndoLog := {}
  ring : List RingRec := []
  ringHead : Nat := 0
  faultStep : Option Word := none
  firstStep : Word := 0
  fenceReady : List Nat := []
  fromRing : List RingRec := []
  deriving DecidableEq, Repr

/-- The ingest state of one allotment (R270–R277). -/
structure Ingest where
  step : Word := 0
  phaseOpen : Bool := false
  taken : Nat := 0
  perClass : FMap Nat := []
  rejected : Nat := 0
  window : Int := 0
  held : Bool := false
  formed : Bool := false
  boundary : Option Word := none
  cntTaken : Word := 0
  cntRejected : Word := 0
  rejLost : Word := 0
  empty : Word := 0
  rejWritten : Nat := 0
  replaying : Bool := false
  phaseHead : Nat := 0
  phases : List PhaseAcc := []
  origins : List (Word × Word) := []
  deriving DecidableEq, Repr

/-- The spine partition and the run state of one allotment. `valBusy` holds the request that the validator checks, with the
binding in force at its go (R444). -/
structure Spine where
  st : AllotState := .unbound
  plan : Option Plan := none
  kept : Option Plan := none
  stopReason : Nat := 0
  stopDetail : Nat := 0
  everLoaded : Bool := false
  vcfg : BitVec 2 := 1
  skipThr : Word32 := 0x7F800000
  clipThr : Word32 := 0x7F800000
  lstbl : Word := 0x180003E84F4F0000
  ls : BitVec 8 := 0x10
  clean : BitVec 16 := 0
  outcome : BitVec 2 := 0
  cause : BitVec 3 := 0
  vring : Word := 0x1000000000000000
  step : Word := 0
  acc : ExactAcc := {}
  nf : Nat := 0
  reports : List Report := []
  marksIn : List (Nat × Word) := []
  endMarks : List Nat := []
  prdReports : List PredReport := []
  lastVerdict : Option Word := none
  boundaryOf : Option Word := none
  verdicts : List VerdictMsg := []
  updDone : List Nat := []
  updEnded : Bool := false
  maskDone : List Nat := []
  trSums : FMap (ExactAcc × ExactAcc) := []
  trDone : Bool := true
  valReq : FMap Word := []
  valCode : BitVec 8 := 0
  valSlot : BitVec 8 := 0
  valDone : Bool := false
  valBusy : Option (List Nat × DescReq) := none
  ingot : Ingot := {}
  ingest : Ingest := {}
  deriving DecidableEq, Repr

/-! ### A host port -/

/-- A queue pair (R353, R354): the four registers, the submission head, and the completion tail and phase. -/
structure QueuePair where
  sqCfg : Word := 0
  cqCfg : Word := 0
  tailErr : Bool := false
  tail : BitVec 15 := 0
  cqHead : BitVec 15 := 0
  sqHead : Nat := 0
  cqTail : Nat := 0
  phase : Bool := true
  deriving DecidableEq, Repr

/-- An event waiting for completion queue 0 (R355): kind, step, payload, and the count it covers. -/
structure Event where
  kind : Nat
  step : Word
  payload : List Byte
  count : Nat
  deriving DecidableEq, Repr

structure Port where
  stop : BitVec 8 := 0
  flit : Bool := false
  rate : BitVec 4 := 0
  width : BitVec 8 := 0
  d3hot : Bool := false
  ideInsecure : BitVec 2 := 0
  spdmSession : Bool := false
  doeAnswer : Option (List Byte) := none
  spdmChunks : List Byte := []
  held : Bool := false
  slow : Bool := false
  perstLow : Bool := false
  qs : FMap QueuePair := []
  nextSq : Nat := 0
  events : List Event := []
  ingEn : Bool := false
  prodErr : Bool := false
  lenErr : Bool := false
  ingFault : Bool := false
  ingBase : Word := 0
  ingLen : Word := 0x10000
  ingProd : Word := 0
  ingCons : Word := 0
  rejRd : Word := 0
  aptBase : Word := 0
  win : FMap Word := []
  msix : FMap Word32 := []
  pba : FMap Word := []
  msiRaised : Nat := 0
  deriving DecidableEq, Repr

/-! ### Hallmark -/

/-- An error report (R311), with the allotment it is of. -/
structure ErrReport where
  cls : Nat
  island : Nat
  site : Nat
  step : Word
  detail : Word32
  allot : Nat
  deriving DecidableEq, Repr

/-- A coalescing entry of a report port (R314). -/
structure Coalesce where
  first : ErrReport
  last : ErrReport
  count : Nat
  ovf : Nat
  deriving DecidableEq, Repr

/-- A log record (R375 Table 8). -/
structure LogRec where
  seq : Nat
  time : Word
  kind : Nat
  allot : Nat
  coalesced : Bool
  count : Nat
  ovf : Nat
  body : List Byte
  body2 : List Byte
  deriving DecidableEq, Repr

/-- A sensor record (R365 Table 3); `told` says that its last reading was beyond its threshold, so that a reading beyond it
crosses it no more. -/
structure Sensor where
  valid : Bool := false
  stale : Bool := false
  value : Int := 0
  max : Int := -2147483648
  missed : Nat := 0
  told : Bool := false
  deriving DecidableEq, Repr

/-- A discrete input's filter (R369). sinceEdge counts its samples of 100 ns since the last edge. -/
structure Filter where
  started : Bool := false
  prev : Bool := false
  sinceEdge : Nat := 1099511627776
  active : Bool := false
  hi : Nat := 0
  lo : Nat := 0
  held : Nat := 0
  calm : Nat := 0
  chat : Bool := false
  alerted : Bool := false
  chatter : BitVec 16 := 0
  release : BitVec 24
  assert : BitVec 24
  minPulse : BitVec 16
  alertAfter : BitVec 16
  deriving DecidableEq, Repr

/-- An operator key slot (R378). -/
structure KeySlot where
  key : Option (BitVec 1064) := none
  role : Nat := 0
  nonce : BitVec 256 := 0
  deriving DecidableEq, Repr

/-- The last response Hallmark sent (R377), by the fields of Table 10 that differ among responses. -/
structure HmpResp where
  cmd : Nat
  tag : Word32
  slot : Byte
  status : Nat
  nonce : BitVec 256
  body : List Byte
  sig : List Byte
  deriving DecidableEq, Repr

/-- A mailbox partition (R388). -/
structure Mailbox where
  status : BitVec 8 := 0
  done : Bool := false
  period : Word32 := 0
  request : List Host.Cell := []
  response : List Host.Cell := []
  deriving DecidableEq, Repr

/-- A firmware image (R380): its bytes by offset. Every field of its header is read from them. -/
structure FwImage where
  data : List Host.Cell
  deriving DecidableEq, Repr

/-- The Hallmark block (R364–R388). `intakeAt` is the report port and the class the intake's turn has reached, port 60
standing for the hardware queue (R375); `netQueue` holds the waiting HMP datagrams (R377) and `netAnswer` the last
answer of another protocol (R376); before `answerAt` nothing is answered while the processor restarts (R381).
`spdmChunks` gathers a message that arrives in chunks, `osDigests` holds what step 0x14 measured of each allotment's
operating system (R386), `portUp` says that the management port runs (R418), and `railMv` holds the voltage to which each
core rail is set, by rail index (R390). `deviceSecret`,
`fwKeyHash`, `jtagLock`, `svn` and `fuseMap` are the fuses (R364), of which the fuse map is learnt when a start first
reads it (R22); `serial` and `macAddr` stand in the module data EEPROM; `certChain` is the part of certificate slot 0
that is stored at manufacture, and `attCert` the attestation certificate (R384, R385). -/
structure Hallmark where
  fwState : BitVec 8 := 3
  alert : BitVec 8 := 0
  netDrop : BitVec 16 := 0
  svn : BitVec 8 := 0
  fuseMap : Option (List Nat) := none
  jtagOpen : Bool := false
  filtLock : Bool := false
  flowMin : BitVec 16 := 0
  ulPulse : BitVec 16 := 0
  flowRate : BitVec 16 := 0
  lowFlowMs : Nat := 0
  flowCount : Nat := 0
  railFaults : BitVec 16 := 0
  filters : FMap Filter := []
  sensors : FMap Sensor := []
  throttleOk : FMap Nat := []
  log : FMap LogRec := []
  logHead : Nat := 0
  ports : FMap (FMap Coalesce) := []
  hwQueue : List LogRec := []
  intakeAt : Nat × Nat := (0, 0)
  cntBase : Word := 0
  netQueue : List (List Byte) := []
  netAnswer : Option NetAnswer := none
  answerAt : Word := 0
  deviceSecret : BitVec 512 := Config.deviceSecret
  serial : BitVec 128 := Config.serial
  macAddr : BitVec 48 := Config.macAddr
  fwKeyHash : BitVec 512 := Config.fwKeyHash
  jtagLock : Bool := true
  certChain : List Byte := []
  attCert : List Byte := []
  keys : FMap KeySlot := []
  resp : Option HmpResp := none
  drbg : Nat := 0
  staging : List Host.Cell := []
  staged : List Nat := []
  verified : Option FwImage := none
  running : FwImage
  flash : FwImage
  selfTest : Bool := false
  storedFilters : FMap FilterPar := []
  storedNet : NetCfg := { ipv4 := 0, ipv6 := 0, udpPort := 47211, fec := 0 }
  net : NetCfg := { ipv4 := 0, ipv6 := 0, udpPort := 47211, fec := 0 }
  storedThresh : FMap Int := []
  thresh : FMap Int := []
  table : List AllotRec := []
  inForce : List AllotRec := []
  mailboxes : FMap Mailbox := []
  hmpSessions : Nat := 0
  spdmChunks : List Byte := []
  osDigests : FMap (BitVec 512) := []
  portUp : Bool := true
  railMv : FMap Nat := []
  govFloor : BitVec 16 := 0x190
  govSlew : BitVec 8 := 0x10
  govIdle : BitVec 16 := 0x3E8
  brake : Bool := false
  leak : Bool := false
  trip : Bool := false
  descending : Bool := false
  rising : Bool := false
  storedSlew : BitVec 8 := 0x10
  storedFloor : BitVec 16 := 0x190
  thermtrip : Bool := false
  throttle : Curve := { count := 3, points := [(100000, 1700), (110000, 800), (112000, 400)] }
  deriving DecidableEq, Repr

/-! ### Start-up, journal and supply -/

/-- A boot-journal record (R422). -/
inductive JRec where
  | start (kind restarts start : Nat) (version : Word32) (svn : Byte) (cycles : Word)
  | step (step unit start method altRun outcome reason : Nat) (detail duration fenced : Word32)
  | fence (typ index cls retests start : Nat) (step : Word)
  | unfence (typ index cls retests start : Nat) (step : Word)
  | fuse (part : Nat) (bad : List Nat)
  | header (generation : Nat)
  | corrupt (bytes : List Byte)
  deriving DecidableEq, Repr

/-- What start-up keeps: the two halves of the journal, of which each holds its half header first (R422), the start under
way, and `at_`, the step that hangs or waits, with the report of its start and the reset that waits for its record
(R413, R417). `retestFailed` names the packages whose retest has failed in this start (R421). -/
structure Boot where
  half0 : List JRec := [.header 0]
  half1 : List JRec := []
  start : Nat := 0
  stopStep : BitVec 8 := 0
  reason : BitVec 8 := 0
  restarts : Nat := 0
  ready : Bool := false
  kind : BitVec 3 := 0
  badSites : List Nat := []
  withheldSites : List Nat := []
  initialised : List (Nat × Nat) := []
  at_ : Option (Nat × Nat) := none
  restartDue : Bool := false
  rep : Option StartReport := none
  resetDue : Option (Nat × StartReport) := none
  retestFailed : List Nat := []
  deriving DecidableEq, Repr

/-- The hot-swap stage and the rails (R454–R457): `inputOk` says that the input has risen through its turn-on level and
not fallen through the turn-off one since. -/
structure Supply where
  en : Bool := false
  inputOk : Bool := false
  overVolt : Bool := false
  charging : Bool := false
  retryWait : Bool := false
  on : Bool := false
  rails : BitVec 16 := 0
  lockedOff : Bool := false
  deriving DecidableEq, Repr

/-! ### The module -/

/-- The whole module (R21). Units that are not listed are at their reset values. `mem` holds stacked SRAM and LPDDR5X
by physical device address, `hostMem` the host memory behind each port at port × 2^64 + address; a byte that is not
listed reads as 0. `poisonWords` and `poisonLines` name poisoned 64-bit words of stacked SRAM and 64-byte lines of
LPDDR5X; `injected` holds the bit errors that ERR_INJ and MEM_INJ have stored (R321), by the first address of the
unit. `errUnits` lists the units that have met an error, `rewritten` those of them rewritten whole since, `remaps` the
lines with a persistent error that await a spare, `fenceDue` the fences that persistent errors call for (R322), and `lostClocks` the
clock islands 36 to 59 whose clock is lost (R392).
`ticks` counts idle steps, `free` numbers the uses of free values, and `pending` is the queue of waiting commands,
first in first out: these three are the model's own. -/
structure State where
  mem : List Host.Cell := []
  hostMem : List Host.Cell := []
  poisonWords : List Nat := []
  poisonLines : List Nat := []
  cores : FMap Core := []
  islands : FMap Island := []
  packages : FMap Package := []
  spines : FMap Spine := []
  ports : FMap Port := []
  signals : List Signal := []
  injected : FMap Nat := []
  errUnits : List Nat := []
  rewritten : List Nat := []
  remaps : List Nat := []
  lostClocks : List Nat := []
  fenceDue : List (Nat × Nat × Nat) := []
  hm : Hallmark
  boot : Boot := {}
  supply : Supply := {}
  ticks : Word := 0
  free : Nat := 0
  pending : List Instr := []
  deriving DecidableEq, Repr

/-- The firmware image of a module as delivered: its bytes are not given by the manual. -/
def FwImage.delivered : FwImage := { data := Config.flashImage }

/-- Hallmark's registers at their Reset columns. -/
def Hallmark.reset : Hallmark := { running := FwImage.delivered, flash := FwImage.delivered }

/-- The module with every register at the value of its Reset column, no allotment record in force, no plan, no
memory contents and nothing waiting. -/
def State.reset : State := { hm := Hallmark.reset }

end Sys2Proof.Machine
end

