-- ==== Sys2Proof/Machine/Ops.lean ====
section
/-! DEFINITION. Named operations over the sparse maps, the units and memory: addresses and their owners (R27–R29),
reads and writes with poison and undo logging (R318, R319, R331), error reports and the log (R311, R314), events
(R355) and completions (R354). -/

namespace Sys2Proof

/-! ### Sparse maps -/

/-- The entry of key k, if it is listed. -/
def FMap.find {α : Type} (k : Nat) : FMap α → Option α
  | [] => none
  | (k', v) :: t => if k' = k then some v else FMap.find k t

/-- The entry of key k, or d. -/
def FMap.getD {α : Type} (m : FMap α) (k : Nat) (d : α) : α := (FMap.find k m).getD d

/-- Lists v at key k, keeping keys rising. -/
def FMap.insert {α : Type} (k : Nat) (v : α) : FMap α → FMap α
  | [] => [(k, v)]
  | (k', v') :: t =>
    if k < k' then (k, v) :: (k', v') :: t
    else if k = k' then (k, v) :: t
    else (k', v') :: FMap.insert k v t

/-- Removes key k. -/
def FMap.erase {α : Type} (k : Nat) (m : FMap α) : FMap α := m.filter fun x => x.1 ≠ k

/-! ### The grid (R12, R15) and allotment records (R347, R29) -/

def rowOf (island : Nat) : Nat := island / 6
def colOf (island : Nat) : Nat := island % 6

def lpBase (n : Nat) : Nat := 0x010000000000 + n * 0x1200000000

/-- The package of a physical LPDDR5X address. -/
def lpPkg (a : Nat) : Nat := (a - 0x010000000000) / 0x1200000000

def AllotRec.hasIsland (r : AllotRec) (i : Nat) : Bool :=
  r.row0 ≤ rowOf i && rowOf i ≤ r.row1 && r.col0 ≤ colOf i && colOf i ≤ r.col1

def AllotRec.islands (r : AllotRec) : List Nat := (List.range 36).filter r.hasIsland
def AllotRec.pkgs (r : AllotRec) : List Nat := (List.range 12).filter fun n => r.packages.getLsbD n


/-- The physical location of an LPDDR5X address of allotment r (R29). -/
def AllotRec.phys (r : AllotRec) (a : Nat) : Nat :=
  if r.interleave then
    let ps := r.pkgs
    let k := ps.length
    let pk := lpPkg a
    let j := ps.findIdx (· = pk)
    let o := j * 0x1200000000 + (a - lpBase pk)
    let b := o >>> 12
    lpBase (ps.getD (b % k) 0) + ((b / k) <<< 12) + o % 4096
  else a

/-- The device address of a physical LPDDR5X address of allotment r: the inverse of `phys`. -/
def AllotRec.device (r : AllotRec) (a : Nat) : Nat :=
  if r.interleave then
    let ps := r.pkgs
    let k := ps.length
    let pk := lpPkg a
    let blk := (a - lpBase pk) / 4096
    let o := (blk * k + ps.findIdx (· = pk)) * 4096 + a % 4096
    lpBase (ps.getD (o / 0x1200000000) 0) + o % 0x1200000000
  else a

end Sys2Proof

namespace Sys2Proof.Machine

open Host (Cell Outcome)

/-! ### Small helpers on words -/

/-- Field [h:l] of a word, as a number (R4). -/
def fld {w : Nat} (x : BitVec w) (h l : Nat) : Nat := (x.toNat >>> l) % 2 ^ (h - l + 1)

/-- Bit i of a word. -/
def bit {w : Nat} (x : BitVec w) (i : Nat) : Bool := x.getLsbD i

/-- x with field [h:l] set to v. -/
def setFld {w : Nat} (x : BitVec w) (h l : Nat) (v : Nat) : BitVec w :=
  let mask : Nat := (2 ^ (h - l + 1) - 1) <<< l
  (x &&& ~~~ (BitVec.ofNat w mask)) ||| BitVec.ofNat w ((v % 2 ^ (h - l + 1)) <<< l)

def b2n (b : Bool) : Nat := if b then 1 else 0

/-- A sum that stops at 2^w − 1 (saturating counters). -/
def satAdd {w : Nat} (x : BitVec w) (n : Nat) : BitVec w := BitVec.ofNat w (min (x.toNat + n) (2 ^ w - 1))

/-- sat(v, lo, hi) of R82. -/
def satI (v lo hi : Int) : Int := if v < lo then lo else if hi < v then hi else v

/-- The signed value of the low w bits of n. -/
def signed (w n : Nat) : Int := (BitVec.ofNat w n).toInt

/-- The low w bits of an integer, as a number. -/
def wrap (w : Nat) (v : Int) : Nat := (BitVec.ofInt w v).toNat

def ceilDiv (a b : Nat) : Nat := (a + b - 1) / b

/-- a rounded up to a multiple of b. -/
def roundUp (a b : Nat) : Nat := ceilDiv a b * b

/-- n as w little-endian bytes (R4). -/
def leBytes : Nat → Nat → List Byte
  | 0, _ => []
  | w + 1, n => BitVec.ofNat 8 n :: leBytes w (n / 256)

/-- The number that little-endian bytes hold (R4). -/
def ofLe : List Byte → Nat
  | [] => 0
  | b :: t => b.toNat + 256 * ofLe t

/-- Bytes a to a + n − 1 of a list, zero beyond its end. -/
def slice (l : List Byte) (a n : Nat) : List Byte :=
  let t := (l.drop a).take n
  t ++ List.replicate (n - t.length) 0

/-- Replaces element i of a list. -/
def setAt {α : Type} (l : List α) (i : Nat) (v : α) : List α := l.set i v

/-! ### CRC-32C and sum64 (R285, R286) -/

/-- One bit of the division, on numbers below 2^32; by cases so that it forces its argument. -/
def crcBit : Nat → Nat
  | 0 => 0
  | c + 1 => if c % 2 = 0 then ((c + 1) / 2) ^^^ 0x82F63B78 else (c + 1) / 2

def crcByte (c : Nat) (b : Byte) : Nat :=
  crcBit (crcBit (crcBit (crcBit (crcBit (crcBit (crcBit (crcBit (c ^^^ b.toNat))))))))

def crcFold : Nat → List Byte → Nat
  | c, [] => c
  | 0, b :: t => crcFold (crcByte 0 b) t
  | c + 1, b :: t => crcFold (crcByte (c + 1) b) t

/-- CRC-32C of a byte string (R285). -/
def crc32c (l : List Byte) : Word32 := ~~~ BitVec.ofNat 32 (crcFold 0xFFFFFFFF l)

/-- sum64 of a byte string (R286). -/
def sum64 (l : List Byte) : Word :=
  BitVec.ofNat 64 ((List.range (ceilDiv l.length 8)).foldl (fun a i => a + ofLe ((l.drop (8 * i)).take 8)) 0)

/-! ### Units -/

def Core.reset : Core := {}
def Island.reset : Island := {}

/-- Table 6 of Hallmark: release, assert, min_pulse in samples, alert_after in ms. -/
def filterDefault : Nat → Filter
  | 0 => { release := 200, assert := 5, minPulse := 2, alertAfter := 10000 }
  | 1 => { release := 10000, assert := 100, minPulse := 20, alertAfter := 10000 }
  | 2 => { release := 10000, assert := 100, minPulse := 20, alertAfter := 1000 }
  | 3 => { release := 10000000, assert := 1000, minPulse := 100, alertAfter := 0 }
  | _ => { release := 0, assert := 0, minPulse := 500, alertAfter := 5000 }

/-- Default warn thresholds (R408 Table 5, R459): m°C for temperatures. Sensors the manual gives no default for
start at the limit in their direction of danger. -/
def warnDefault (id : Nat) : Int :=
  if id < 72 then 95000
  else if id < 96 then 100000
  else if id < 132 then 2147483647
  else if id < 144 then 85000
  else if id < 148 then 90000
  else if id = 151 then 45000
  else if id = 152 then 60000
  else if id = 148 ∨ id = 153 then -2147483648
  else 2147483647

def State.core (s : State) (i : Nat) : Core := FMap.getD s.cores i {}
def State.setCore (s : State) (i : Nat) (c : Core) : State := { s with cores := FMap.insert i c s.cores }
def State.island (s : State) (i : Nat) : Island := FMap.getD s.islands i {}
def State.setIsland (s : State) (i : Nat) (c : Island) : State := { s with islands := FMap.insert i c s.islands }
def State.pkg (s : State) (i : Nat) : Package := FMap.getD s.packages i {}
def State.setPkg (s : State) (i : Nat) (c : Package) : State := { s with packages := FMap.insert i c s.packages }
def State.spine (s : State) (i : Nat) : Spine := FMap.getD s.spines i {}
def State.setSpine (s : State) (i : Nat) (c : Spine) : State := { s with spines := FMap.insert i c s.spines }
def State.port (s : State) (i : Nat) : Port := FMap.getD s.ports i {}
def State.setPort (s : State) (i : Nat) (c : Port) : State := { s with ports := FMap.insert i c s.ports }

def State.modCore (s : State) (i : Nat) (f : Core → Core) : State := s.setCore i (f (s.core i))
def State.modIsland (s : State) (i : Nat) (f : Island → Island) : State := s.setIsland i (f (s.island i))
def State.modPkg (s : State) (i : Nat) (f : Package → Package) : State := s.setPkg i (f (s.pkg i))
def State.modSpine (s : State) (i : Nat) (f : Spine → Spine) : State := s.setSpine i (f (s.spine i))
def State.modPort (s : State) (i : Nat) (f : Port → Port) : State := s.setPort i (f (s.port i))
def State.modHm (s : State) (f : Hallmark → Hallmark) : State := { s with hm := f s.hm }

/-- Applies f to each number of a list in turn. -/
def forEach (l : List Nat) (s : State) (f : State → Nat → State) : State := l.foldl f s

def Core.thread (c : Core) (ctx : Nat) : Thread := FMap.getD c.threads ctx {}
def Core.setThread (c : Core) (ctx : Nat) (t : Thread) : Core := { c with threads := FMap.insert ctx t c.threads }
def Core.run (c : Core) (task : Nat) : TaskRun := FMap.getD c.runs task {}
def Core.setRun (c : Core) (task : Nat) (r : TaskRun) : Core := { c with runs := FMap.insert task r c.runs }
def Core.queue (c : Core) (q : Nat) : Queue := FMap.getD c.queues q {}
def Core.setQueue (c : Core) (q : Nat) (v : Queue) : Core := { c with queues := FMap.insert q v c.queues }
def Core.tile (c : Core) (tl : Nat) : Tile := if tl = 0 then c.ta else c.tb
def Core.setTile (c : Core) (tl : Nat) (t : Tile) : Core := if tl = 0 then { c with ta := t } else { c with tb := t }
def Core.bank (c : Core) (b : Nat) : Bank := if b = 0 then c.bank0 else c.bank1
def Core.setBank (c : Core) (b : Nat) (v : Bank) : Core :=
  if b = 0 then { c with bank0 := v } else { c with bank1 := v }
/-- Whether a transfer loads bank b. -/
def LoadKind.loads (k : LoadKind) (b : Nat) : Bool := match k with | .weights x _ => x = b | _ => false

/-- The load path with its banks' load flags: a bank is loading while the path holds a transfer for it (R103). -/
def Core.setPath (c : Core) (l : List LoadOp) : Core :=
  { c with
    loadPath := l
    bank0 := { c.bank0 with loading := l.any fun o => o.kind.loads 0 }
    bank1 := { c.bank1 with loading := l.any fun o => o.kind.loads 1 } }

/-- A tile that an abort or a load empties: without contents, record or drain. Its status flags stay until it opens again
(R104, R126), but the record is cleared at once (DESIGN CHOICE, log entry 79). -/
def Tile.emptied (t : Tile) : Tile :=
  { t with st := .empty, elems := [], recs := [], pre := none, drain := none, pred := none }

/-- What a core holds of the last delivered verdict: loss scale, step and fallback bits (R146, R204). -/
def Core.hears (c : Core) (lscale : Word) (step : Word) (fb : FMap Word) : Core :=
  { c with lscale := lscale, prdFbStep := step, prdFb := fb }

def Core.pred (c : Core) (tl : Nat) : Option Pred := if tl = 0 then c.predA else c.predB
def Core.setPred (c : Core) (tl : Nat) (p : Option Pred) : Core :=
  if tl = 0 then { c with predA := p } else { c with predB := p }

/-- A scalar register; s0 reads zero (R45, R292). -/
def Thread.reg (t : Thread) (r : Nat) : Word := if r = 0 then 0 else FMap.getD t.regs r 0
/-- Writes a scalar register; a write to s0 is discarded (R292). -/
def Thread.setReg (t : Thread) (r : Nat) (v : Word) : Thread :=
  if r = 0 then t else { t with regs := FMap.insert r v t.regs }
/-- A predicate; p0 reads true (R45). -/
def Thread.pred (t : Thread) (p : Nat) : Bool := if p = 0 then true else t.preds.getLsbD p
/-- Writes a predicate; a write to p0 is discarded (R292). -/
def Thread.setPred (t : Thread) (p : Nat) (v : Bool) : Thread :=
  if p = 0 then t else { t with preds := setFld t.preds p p (b2n v) }
def Thread.sbPending (t : Thread) (k : Nat) : Bool := t.sbs.getLsbD k
def Thread.setSb (t : Thread) (k : Nat) (v : Bool) : Thread := { t with sbs := setFld t.sbs k k (b2n v) }

def State.clearSb (s : State) (site ctx sb : Nat) : State :=
  s.modCore site fun c => c.setThread ctx ((c.thread ctx).setSb sb false)

/-- A vector register element; an element that is not listed is 0 (R226). -/
def Core.velem (c : Core) (v i : Nat) : Word32 := FMap.getD c.vregs (v * 4096 + i) 0
/-- Writes a vector register element, listing only nonzero ones. -/
def Core.setVelem (c : Core) (v i : Nat) (x : Word32) : Core :=
  if x = 0 then { c with vregs := FMap.erase (v * 4096 + i) c.vregs }
  else { c with vregs := FMap.insert (v * 4096 + i) x c.vregs }

/-! ### Task-table entries (R53 Table 6) -/

def teArg (e : BitVec 128) : Nat := fld e 127 76
def teEntryPc (e : BitVec 128) : Nat := fld e 75 62
def teFirst (e : BitVec 128) : Nat := fld e 61 54
def teCount (e : BitVec 128) : Nat := fld e 53 46 + 1
def tePhase (e : BitVec 128) : Nat := fld e 45 43
def teTrigger (e : BitVec 128) : Nat := fld e 42 41
def teTrigSlot (e : BitVec 128) : Nat := fld e 40 35
def teTrigCount (e : BitVec 128) : Nat := fld e 34 19
def teRetryLimit (e : BitVec 128) : Nat := fld e 18 17
def teIdem (e : BitVec 128) : Bool := bit e 16
def teDoneEn (e : BitVec 128) : Bool := bit e 15
def teDoneCore (e : BitVec 128) : Nat := fld e 14 6
def teDoneSlot (e : BitVec 128) : Nat := fld e 5 0

def Core.task (c : Core) (i : Nat) : BitVec 128 := FMap.getD c.tasks i 0

/-- Contexts of a task-table entry, in ascending order. -/
def teContexts (e : BitVec 128) : List Nat := (List.range (teCount e)).map (teFirst e + ·)

/-- The task whose context range holds ctx (R53): the entries do not overlap, and an unused entry owns none. -/
def Core.taskOf (c : Core) (ctx : Nat) : Option Nat :=
  (List.range 32).find? fun i =>
    let e := c.task i
    teTrigger e ≠ 3 && teFirst e ≤ ctx && ctx < teFirst e + teCount e

/-! ### Sites, islands and allotments (R12, R15, R347, R350) -/

def islandOf (site : Nat) : Nat := site / 16
def posOf (site : Nat) : Nat := site % 16
/-- The sites of an island. -/
def islandSites (i : Nat) : List Nat := (List.range 16).map (16 * i + ·)
/-- The record in force for allotment p. -/
def State.record (s : State) (p : Nat) : Option AllotRec := s.hm.inForce.find? fun r => r.valid && r.port = p

/-- The allotment whose rectangle holds island i. -/
def State.allotOfIsland (s : State) (i : Nat) : Option Nat :=
  (List.range 8).find? fun p => match s.record p with | some r => r.hasIsland i | none => false

def State.allotOfSite (s : State) (site : Nat) : Option Nat := s.allotOfIsland (islandOf site)

def State.allotOfPkg (s : State) (n : Nat) : Option Nat :=
  (List.range 8).find? fun p => match s.record p with | some r => r.packages.getLsbD n | none => false

/-! ### The boot journal (R422) -/

/-- The generation in the header of a half of the journal; none where its header is not valid. -/
def halfGeneration : List JRec → Option Nat
  | .header g :: _ => some g
  | _ => none

/-- The active half: false half0, true half1; none where no header is valid. -/
def Boot.active (b : Boot) : Option Bool :=
  match halfGeneration b.half0, halfGeneration b.half1 with
  | none, none => none
  | some _, none => some false
  | none, some _ => some true
  | some x, some y => some (decide (x < y))

def Boot.half (b : Boot) (h : Bool) : List JRec := if h then b.half1 else b.half0
def Boot.setHalf (b : Boot) (h : Bool) (l : List JRec) : Boot := if h then { b with half1 := l } else { b with half0 := l }

/-- The records of the active half, after its header. -/
def Boot.records (b : Boot) : List JRec := match b.active with | some h => (b.half h).tail | none => []

/-- A record is added to the active half, which holds 16,384 (R422). -/
def Boot.add (b : Boot) (r : JRec) : Boot :=
  match b.active with
  | some h => if (b.half h).length < 16384 then b.setHalf h (b.half h ++ [r]) else b
  | none => b

/-- What a record does to the fence list: type, index, class and retests of each unit fenced (R324, R421). -/
def fenceEntry (l : List (Nat × Nat × Nat × Nat)) : JRec → List (Nat × Nat × Nat × Nat)
  | .fence typ i cls n _ _ =>
    if l.any fun f => f.1 = typ && f.2.1 = i then
      l.map fun f => if f.1 = typ && f.2.1 = i then (f.1, f.2.1, f.2.2.1, n) else f
    else l ++ [(typ, i, cls, n)]
  | .unfence typ i _ _ _ _ => l.filter fun f => !(f.1 = typ && f.2.1 = i)
  | _ => l

/-- The fence list, which the journal's fence and unfence records give. -/
def Boot.fences (b : Boot) : List (Nat × Nat × Nat × Nat) := b.records.foldl fenceEntry []

/-- A slice is in service once its test has passed, unless it is fenced or withheld (R25, R418). -/
def State.sliceOk (s : State) (site : Nat) : Bool :=
  (s.island (islandOf site)).tested.getLsbD (posOf site) &&
  !(s.island (islandOf site)).sliceFence.getLsbD (posOf site) && !(s.boot.withheldSites.contains site)

def State.pkgOk (s : State) (n : Nat) : Bool := !(s.pkg n).fenced && !(s.pkg n).withheld

/-- A memory controller and its Planisher start no transfer of their own while the island's gate is closed (R401) or its
clock has stopped (R392). -/
def State.pkgStalled (s : State) (n : Nat) : Bool := (s.pkg n).gov.gateClosed || s.lostClocks.contains (36 + n)

/-- LPDDR5X refreshes at double rate above 85 °C, and above 95 °C the controller's gate admits half the cycles, by the
reading of the package's sensor (R408 Table 5). -/
def State.lpddrAbove (s : State) (n : Nat) (limit : Int) : Bool :=
  match FMap.find (132 + n) s.hm.sensors with
  | some r => r.valid && decide (limit < r.value)
  | none => false
def State.refreshDoubled (s : State) (n : Nat) : Bool := s.lpddrAbove n 85000
def State.halfCycles (s : State) (n : Nat) : Bool := s.lpddrAbove n 95000

/-- A good, unfenced site (R22, R24, R324). -/
def State.siteGood (s : State) (site : Nat) : Bool :=
  !(s.boot.badSites.contains site) && !(s.core site).fenced && !(s.boot.withheldSites.contains site)

/-- ISL_CNT of an island (R393): cycles since its clock started. -/
def State.islCnt (s : State) (i : Nat) : Word := s.ticks - (s.island i).cntBase

/-! ### Addresses (R27–R29) -/

def sliceSize : Nat := 0x3000000
def sliceBase (site : Nat) : Nat := site * sliceSize
def sramEnd : Nat := 0x6C0000000
def lpEnd : Nat := 0x01D800000000
def winBase (p : Nat) : Nat := 0x100000000000 + p * 0x010000000000

/-- Where a device address lies (Table 4 of The Module as a Whole and One Training Step). -/
inductive Region where
  | slice (site : Nat)
  | lpddr (pkg : Nat)
  | window (port : Nat)
  | csr
  | hole
  deriving DecidableEq, Repr

def region (a : Nat) : Region :=
  if a < sramEnd then .slice (a / sliceSize)
  else if 0x010000000000 ≤ a && a < lpEnd then .lpddr (lpPkg a)
  else if 0x100000000000 ≤ a && a < 0x180000000000 then .window ((a - 0x100000000000) / 0x010000000000)
  else if 0xF00000000000 ≤ a && a < 0xF00024000000 then .csr
  else if 0xF10000000000 ≤ a && a < 0xF10002400000 then .csr
  else if 0xF20000000000 ≤ a && a < 0xF20000C00000 then .csr
  else if 0xF30000000000 ≤ a && a < 0xF30000100000 then .csr
  else if 0xF40000000000 ≤ a && a < 0xF40000800000 then .csr
  else if 0xF50000000000 ≤ a && a < 0xF50000100000 then .csr
  else .hole

/-- Where a byte is kept: device memory by physical address, or host memory at port × 2^64 + bus address. -/
inductive Loc where
  | dev (a : Nat)
  | host (k : Nat)
  deriving DecidableEq, Repr

def Port.winEntry (p : Port) (e : Nat) : Word := FMap.getD p.win e 0

/-- The host address of a device address of port p's window (R351). -/
def Port.hostAddr (po : Port) (port a : Nat) : Nat :=
  let off := a - winBase port
  (po.winEntry (off >>> 28) &&& 0xFFFFFFFFF0000000).toNat ||| (off &&& 0x0FFFFFFF)

/-- Whether the TLPs of an access are discarded because their IDE stream is Insecure (R345). -/
def Port.discards (po : Port) (stream : Nat) : Bool := po.ideInsecure ≠ 0 && po.ideInsecure.getLsbD stream

/-- Translation through a window table (R351); none is an address fault. Bit 1 permits reads, bit 2 writes. -/
def translate (po : Port) (port a : Nat) (wr : Bool) : Option Nat :=
  let off := a - winBase port
  let ent := po.winEntry (off >>> 28)
  if !bit ent 0 || (!wr && !bit ent 1) || (wr && !bit ent 2) then none
  else some (port * 2 ^ 64 + po.hostAddr port a)

/-- Resolves an address for a requester of allotment p (R28, R29, R351): none is an address fault. -/
def State.resolve (s : State) (p a : Nat) (wr : Bool) : Option Loc :=
  match s.record p with
  | none => none
  | some r =>
    match region a with
    | .slice site => if r.hasIsland (islandOf site) && s.sliceOk site then some (.dev a) else none
    | .lpddr n =>
      if r.packages.getLsbD n then
        let ph := r.phys a
        match region ph with
        | .lpddr m => if s.pkgOk m then some (.dev ph) else none
        | _ => none
      else none
    | .window q => if q = p then (translate (s.port q) q a wr).map .host else none
    | _ => none

/-- Whether an access of allotment p reaches its host window on an IDE stream whose TLPs are discarded (R345). -/
def State.discards (s : State) (p a n : Nat) : Bool :=
  (s.port p).ideInsecure ≠ 0 && ((List.range (n / 4096 + 2)).any fun i =>
    let x := max a ((a / 4096 + i) * 4096)
    decide (x < a + n) && (match region x with
      | .window q => q = p && (s.port p).discards (Config.ideStream p ((s.port p).hostAddr p x))
      | _ => false))

/-- Accesses of a core that were issued before an entry of the window table t changes keep t (R351). -/
def Core.keepWindow (c : Core) (t : FMap Word) : Core :=
  { c with
    inflight := c.inflight.map fun o => { o with win := some (o.win.getD t) }
    loadPath := c.loadPath.map fun o => { o with win := some (o.win.getD t) }
    queues := c.queues.map fun x => (x.1, { x.2 with
      ring := x.2.ring.map fun e => if e.st = .fetching then { e with win := some (e.win.getD t) } else e }) }

/-- The accesses in flight of allotment p keep its window table as it stands. -/
def State.keepWindows (s : State) (p : Nat) : State :=
  { s with
    cores := s.cores.map fun x => if s.allotOfSite x.1 = some p then (x.1, x.2.keepWindow (s.port p).win) else x }

/-- An access completes with the window table of its issue (R351): w, where an entry has changed since. -/
def State.withWindow (s : State) (p : Nat) (w : Option (FMap Word)) (f : State → State) : State :=
  match w with
  | none => f s
  | some t =>
    let s1 := s.setPort p { s.port p with win := t }
    let u := f s1
    if u.ports = s1.ports then { u with ports := s.ports } else u.setPort p { u.port p with win := (s.port p).win }

/-- Cuts [a, a + n) at 4 KiB boundaries: start and length of each piece. Fuel bounds the number of pieces. -/
def pieces : Nat → Nat → Nat → List (Nat × Nat)
  | 0, _, _ => []
  | f + 1, a, n =>
    if n = 0 then []
    else
      let l := min n (4096 - a % 4096)
      (a, l) :: pieces f (a + l) (n - l)

def piecesOf (a n : Nat) : List (Nat × Nat) := pieces (n / 4096 + 2) a n

/-- Resolves every piece of a range, or none. -/
def State.resolveRange (s : State) (p a n : Nat) (wr : Bool) : Option (List (Loc × Nat)) :=
  if 2 ^ 52 < a + n then none
  else (piecesOf a n).foldr (fun pc acc =>
    match s.resolve p pc.1 wr, acc with
    | some l, some t => some ((l, pc.2) :: t)
    | _, _ => none) (some [])

/-! ### Bytes -/

/-- What an unlisted byte reads as (R415: the write method of start-up leaves every line zero). -/
def unlisted : Byte := 0

/-- One byte of a memory list. -/
def readByte (m : List Cell) (a : Nat) : Byte := FMap.getD m a unlisted

/-- The list without the cells of [a, a + n). -/
def Memory.outside (m : List Cell) (a n : Nat) : List Cell := m.filter fun c => c.1 < a || a + n ≤ c.1

/-- The bytes of n addresses from a on; an entry at the front of the list that has been read is left behind. -/
def Memory.walk : List Cell → Nat → Nat → List Byte
  | _, _, 0 => []
  | [], a, n + 1 => unlisted :: Memory.walk [] (a + 1) n
  | c :: t, a, n + 1 => readByte (c :: t) a :: Memory.walk (if c.1 = a then t else c :: t) (a + 1) n

/-- n bytes from address a. -/
def Memory.read (m : List Cell) (a n : Nat) : List Byte := Memory.walk (m.filter fun c => a ≤ c.1 && c.1 < a + n) a n

/-- Writes one byte, keeping the canonical form: an entry equal to an unlisted byte is removed. -/
def Memory.writeByte (m : List Cell) (a : Nat) (b : Byte) : List Cell :=
  if b = unlisted then FMap.erase a m else FMap.insert a b m

/-- Writes bytes from address a upward. -/
def Memory.write (m : List Cell) (a : Nat) : List Byte → List Cell
  | [] => m
  | b :: t => Memory.write (Memory.writeByte m a b) (a + 1) t

/-- The canonical form of a memory list: addresses strictly rising, no entry equal to an unlisted byte. -/
def Memory.wf : List Cell → Bool
  | [] => true
  | [c] => c.2 ≠ unlisted
  | c :: d :: t => c.2 ≠ unlisted && c.1 < d.1 && Memory.wf (d :: t)

/-- Reads a resolved range. -/
def State.fetch (s : State) : List (Loc × Nat) → List Byte
  | [] => []
  | (.dev a, n) :: t => Memory.read s.mem a n ++ s.fetch t
  | (.host k, n) :: t => Memory.read s.hostMem k n ++ s.fetch t

/-- The poison units that [a, a + n) of device memory touches: 64-bit words of stacked SRAM (R316) or 64-byte
lines of LPDDR5X (R317). -/
def unitSize (a : Nat) : Nat := if a < sramEnd then 8 else 64

def State.poisoned (s : State) (a n : Nat) : Bool :=
  let u := unitSize a
  let l := if a < sramEnd then s.poisonWords else s.poisonLines
  l.any fun k => k * u < a + n && a < k * u + u

def State.poisonedRange (s : State) (l : List (Loc × Nat)) : Bool :=
  l.any fun x => match x.1 with | .dev a => s.poisoned a x.2 | .host _ => false

/-- Poisons the unit that holds physical address a (R318). -/
def State.poison (s : State) (a : Nat) : State :=
  if a < sramEnd then { s with poisonWords := ((a / 8) :: s.poisonWords.filter (· ≠ a / 8)) }
  else { s with poisonLines := ((a / 64) :: s.poisonLines.filter (· ≠ a / 64)) }

/-- A write that covers a whole poisoned unit clears its poison; a partial write leaves it (R319). -/
def State.unpoison (s : State) (a n : Nat) : State :=
  if a < sramEnd then { s with poisonWords := s.poisonWords.filter fun k => !(a ≤ k * 8 && k * 8 + 8 ≤ a + n) }
  else { s with poisonLines := s.poisonLines.filter fun k => !(a ≤ k * 64 && k * 64 + 64 ≤ a + n) }

/-! ### Error reports, events and the log (R311, R314, R355, R375) -/

/-- The low bytes of an error report as the log holds it (R375): class, island, site, detail, step. -/
def ErrReport.bytes (e : ErrReport) : List Byte :=
  leBytes 1 e.cls ++ leBytes 1 e.island ++ leBytes 2 e.site ++ leBytes 4 e.detail.toNat ++ leBytes 8 e.step.toNat

/-- R314: the report joins its class's coalescing entry. -/
def Coalesce.add (o : Option Coalesce) (e : ErrReport) : Coalesce :=
  match o with
  | none => { first := e, last := e, count := 1, ovf := 0 }
  | some c =>
    if c.count < 65535 then { c with last := e, count := c.count + 1 }
    else { c with last := e, ovf := min (c.ovf + 1) (2 ^ 32 - 1) }

/-- Joins a record that finds no room to its kind's coalescing entry, or opens one (R314). -/
def coalesceKind (r : LogRec) : List LogRec → List LogRec
  | [] => [r]
  | q :: t =>
    if q.kind ≠ r.kind then q :: coalesceKind r t
    else if q.count < 65535 then { q with coalesced := true, count := q.count + 1 } :: t
    else { q with ovf := min (q.ovf + 1) (2 ^ 32 - 1) } :: t

/-- A record of another source enters the hardware queue of 256 records; behind a full queue stands one coalescing entry
per kind (R375). -/
def State.logRecord (s : State) (kind allot : Nat) (body body2 : List Byte) : State :=
  let r : LogRec := { seq := 0, time := 0, kind := kind, allot := allot, coalesced := false, count := 1, ovf := 0,
                      body := body, body2 := body2 }
  if s.hm.hwQueue.length < 256 then s.modHm fun h => { h with hwQueue := h.hwQueue ++ [r] }
  else s.modHm fun h => { h with hwQueue := h.hwQueue.take 256 ++ coalesceKind r (h.hwQueue.drop 256) }

/-- Sets alert latches of HM_STAT (R373); ALERT_N is low while any is set. -/
def State.alertLatch (s : State) (b : Nat) : State := s.modHm fun h => { h with alert := setFld h.alert b b 1 }

def Port.qp (p : Port) (k : Nat) : QueuePair := FMap.getD p.qs k {}
def Port.setQp (p : Port) (k : Nat) (q : QueuePair) : Port := { p with qs := FMap.insert k q p.qs }

/-- Entries of a ring from its size_log2 field (R353). -/
def ringEntries (cfg : Word) : Nat := 2 ^ (fld cfg 4 1 + 4)

/-- Device address of entry i of a queue ring. -/
def ringAddr (cfg : Word) (i : Nat) : Nat := fld cfg 51 12 * 4096 + 64 * i

/-- A completion ring is full when its next slot is the one the host will read after a whole lap (R354). -/
def QueuePair.full (q : QueuePair) : Bool := (q.cqTail + 1) % ringEntries q.cqCfg = q.cqHead.toNat % ringEntries q.cqCfg

/-- Writes bytes through a port's window table (R351): none is an address fault. -/
def State.hostWrite (s : State) (p a : Nat) (l : List Byte) : Option State :=
  if s.discards p a l.length then none
  else match region a, region (a + l.length - 1) with
  | .window q, .window q' =>
    if q = p && q' = p then
      (piecesOf a l.length).foldl (fun acc pc =>
        match acc with
        | none => none
        | some s' =>
          match translate (s.port p) p pc.1 true with
          | none => none
          | some k => some { s' with hostMem := Memory.write s'.hostMem k ((l.drop (pc.1 - a)).take pc.2) })
        (some s)
    else none
  | _, _ => none

/-- Reads bytes through a port's window table. -/
def State.hostRead (s : State) (p a n : Nat) : Option (List Byte) :=
  if s.discards p a n then none
  else match region a, region (a + n - 1) with
  | .window q, .window q' =>
    if q = p && q' = p then
      (piecesOf a n).foldl (fun acc pc =>
        match acc, translate (s.port p) p pc.1 false with
        | some l, some k => some (l ++ Memory.read s.hostMem k pc.2)
        | _, _ => none) (some [])
    else none
  | _, _ => none

/-- A class 0x10 report of port p (R343): it joins the report port of island 48 + p, without an event. -/
def State.portReport (s : State) (p : Nat) (detail : Word32) : State :=
  let e : ErrReport := { cls := 0x10, island := 48 + p, site := 0xFFFF, step := (s.spine p).step, detail := detail,
                         allot := if (s.record p).isSome then p else 0xFF }
  s.modHm fun h =>
    let m := FMap.getD h.ports (48 + p) []
    { h with ports := FMap.insert (48 + p) (FMap.insert 0x10 (Coalesce.add (FMap.find 0x10 m) e) m) h.ports }

/-- A completion entry (Table 6 of Host Ports and Allotments): cid, sq, event and coalesced flags, status, kind,
step and payload. -/
structure Completion where
  cid : Nat
  sq : Nat
  event : Bool
  coalesced : Bool
  status : Nat
  kind : Nat
  step : Word
  payload : List Byte
  deriving DecidableEq, Repr

def Completion.bytes (c : Completion) (phase : Bool) : List Byte :=
  leBytes 2 c.cid ++ leBytes 1 c.sq ++ leBytes 1 (b2n phase + 2 * b2n c.event + 4 * b2n c.coalesced) ++
  leBytes 2 c.status ++ leBytes 2 c.kind ++ leBytes 8 c.step.toNat ++ slice c.payload 0 48

/-- What a completion write does (R354, R465): written, dropped by an address fault, or waiting for room. -/
inductive PushResult where
  | written
  | faulted
  | full
  deriving DecidableEq, Repr

/-- Writes an entry to completion queue k of port p. A written entry raises its MSI-X vector while vec_en is 1;
a fault drops the entry and keeps the ring position (R465). -/
def State.pushCompletion (s : State) (p k : Nat) (c : Completion) : State × PushResult :=
  let po := s.port p
  let q := po.qp k
  if !bit q.cqCfg 0 || q.full then (s, .full)
  else
    match s.hostWrite p (ringAddr q.cqCfg q.cqTail) (c.bytes q.phase) with
    | none => (s.portReport p (BitVec.ofNat 32 (k + 32 + c.cid * 65536)), .faulted)
    | some s' =>
      let n := ringEntries q.cqCfg
      let t := (q.cqTail + 1) % n
      let q' := { q with cqTail := t, phase := if t = 0 then !q.phase else q.phase }
      let s'' := s'.modPort p fun po => po.setQp k q'
      let vec := fld q.cqCfg 62 52
      (if bit q.cqCfg 5 then
        s''.modPort p fun po =>
          let ctl := FMap.getD po.msix (4 * vec + 3) 1
          if bit ctl 0 then
            { po with pba := FMap.insert (vec / 64) (setFld (FMap.getD po.pba (vec / 64) 0) (vec % 64) (vec % 64) 1) po.pba }
          else { po with msiRaised := po.msiRaised + 1 }
      else s'', .written)

def Event.completion (e : Event) : Completion :=
  { cid := 0xFFFF, sq := 0, event := true, coalesced := decide (1 < e.count), status := 0, kind := e.kind,
    step := e.step,
    payload := if 1 < e.count then slice e.payload 0 44 ++ leBytes 4 e.count else e.payload }

/-- Delivers buffered events to completion queue 0 in order while it has room (R355). A faulted write drops its
event; the report reaches only the log (R465). -/
def deliverEvents (p : Nat) : List Event → State → State
  | [], s => s.modPort p fun po => { po with events := [] }
  | e :: t, s =>
    match s.pushCompletion p 0 e.completion with
    | (_, .full) => s.modPort p fun po => { po with events := e :: t }
    | (s', _) => deliverEvents p t s'

/-- Replaces the last buffered event of a kind, and counts it (R355). -/
def coalesceLast (e : Event) : List Event → List Event
  | [] => []
  | x :: t =>
    if x.kind = e.kind && !(t.any fun y => y.kind = e.kind) then { e with count := x.count + 1 } :: t
    else x :: coalesceLast e t

/-- Posts an event for port p (R355): buffered behind earlier ones, coalesced beyond 4,096 for kinds 1 and 4. -/
def State.postEvent (s : State) (p kind : Nat) (payload : List Byte) : State :=
  let e : Event := { kind := kind, step := (s.spine p).step, payload := payload, count := 1 }
  let evs := (s.port p).events
  let evs' :=
    if evs.length < 4096 || !(kind = 1 || kind = 4) || !(evs.any fun x => x.kind = kind) then evs ++ [e]
    else coalesceLast e evs
  deliverEvents p evs' s

def ErrReport.payload (e : ErrReport) : List Byte :=
  leBytes 1 e.cls ++ leBytes 1 e.island ++ leBytes 2 e.site ++ leBytes 8 e.step.toNat ++ leBytes 4 e.detail.toNat

/-- Sends an error report (R311): it joins its report port (R314), and an event of kind 4 reaches the hosts that
may see it (R355, R362): the owning allotment's, or every allotment's for class 0x11. -/
def State.report (s : State) (e : ErrReport) : State :=
  let s1 := s.modHm fun h =>
    let m := FMap.getD h.ports e.island []
    { h with ports := FMap.insert e.island (FMap.insert e.cls (Coalesce.add (FMap.find e.cls m) e) m) h.ports }
  if e.cls = 0x11 then
    forEach ((List.range 8).filter fun p => (s.record p).isSome) s1 fun s p => s.postEvent p 4 e.payload
  else if e.allot < 8 then s1.postEvent e.allot 4 e.payload
  else s1

/-- A report of a unit on an island of allotment p, with the step number in force at the source (R311). -/
def State.reportFrom (s : State) (cls island site : Nat) (allot : Option Nat) (detail : Nat) : State :=
  s.report { cls := cls, island := island, site := site,
             step := match allot with | some p => (s.spine p).step | none => 0,
             detail := BitVec.ofNat 32 detail
             allot := match allot with | some p => if (s.record p).isSome then p else 0xFF | none => 0xFF }

/-- An error that AER records: a class 0x10 report of the port (R343). -/
def State.aer (s : State) (p : Nat) : State := s.reportFrom 0x10 (48 + p) 0xFFFF (some p) 0

/-- The report of an access whose TLPs an Insecure stream discarded (R345). -/
def State.lost (s : State) (p a n : Nat) : State := if s.discards p a n then s.aer p else s

/-- The event of kind 4 that carries a class 0x10 report of a queue (R465). -/
def State.queueEvent (s : State) (p detail : Nat) : State :=
  let e : ErrReport := { cls := 0x10, island := 48 + p, site := 0xFFFF, step := (s.spine p).step
                         detail := BitVec.ofNat 32 detail, allot := p }
  s.postEvent p 4 e.payload

/-- The report of an uncorrectable error, or of poison met, at physical address a: class 0x02 or 0x04. -/
def State.reportUe (s : State) (a : Nat) : State :=
  if a < sramEnd then
    s.reportFrom 0x02 (islandOf (a / sliceSize)) (a / sliceSize) (s.allotOfIsland (islandOf (a / sliceSize))) 0
  else
    let n := lpPkg a
    s.reportFrom 0x04 (36 + n) (576 + n) (s.allotOfPkg n) 0

/-- A read or copy that meets poison in these ranges reports it once (R311, R312); the counts of R342 stay. -/
def State.reportPoison (s : State) (l : List (Loc × Nat)) : State :=
  match l.find? fun x => match x.1 with | .dev a => s.poisoned a x.2 | .host _ => false with
  | some (.dev a, _) => s.reportUe a
  | _ => s

/-! ### Errors that a unit's code meets (R316–R318, R321, R322) -/

/-- Spare lines in use on the slice, or the package, that holds physical address a (R322). -/
def State.sparesUsed (s : State) (a : Nat) : Nat :=
  if a < sramEnd then fld (FMap.getD (s.island (islandOf (a / sliceSize))).ecc (posOf (a / sliceSize)) 0) 63 58
  else (s.pkg (lpPkg a)).spares

/-- Lines of the slice, or the package, that holds a which await one of its spare lines. -/
def State.sparesDue (s : State) (a : Nat) : Nat :=
  s.remaps.countP fun k =>
    if a < sramEnd then decide (k * 64 / sliceSize = a / sliceSize)
    else decide (sramEnd ≤ k * 64 ∧ lpPkg (k * 64) = lpPkg a)

/-- An error on the unit that holds address a is persistent when it recurs after the unit was rewritten whole, or
when `again` says that the scrub met it in two consecutive passes (R322). The line then awaits a spare, or without a
spare left its slice or package is due for a fence. -/
def State.noteUnit (s : State) (a : Nat) (again : Bool) (cls : Nat) : State :=
  let u := a / unitSize a * unitSize a
  let line := a / 64
  let s1 := if s.errUnits.contains u then s else { s with errUnits := s.errUnits ++ [u] }
  if !(again || s.rewritten.contains u) || s1.remaps.contains line then s1
  else
    let free := s1.sparesUsed a + s1.sparesDue a < (if a < sramEnd then 32 else 64)
    if free then { s1 with remaps := s1.remaps ++ [line] }
    else if a < sramEnd then { s1 with fenceDue := s1.fenceDue ++ [(1, a / sliceSize, cls)] }
    else { s1 with fenceDue := s1.fenceDue ++ [(2, lpPkg a, cls)] }

/-- Counts a correctable error at physical address a and reports it (R318, R342). -/
def State.noteCe (s0 : State) (a : Nat) (transient : Bool) : State :=
  let s := s0.noteUnit a false (if a < sramEnd then 0x01 else 0x03)
  if a < sramEnd then
    let site := a / sliceSize
    let i := islandOf site
    let s1 := s.modIsland i fun x =>
      let w := FMap.getD x.ecc (posOf site) 0
      let w := setFld w 31 0 (min (fld w 31 0 + 1) (2 ^ 32 - 1))
      let w := setFld w 47 32 (min (fld w 47 32 + 1) 65535)
      let pf := if x.ceLim.toNat < fld w 47 32 && !x.planFence.contains (posOf site) then
        x.planFence ++ [posOf site] else x.planFence
      { x with ecc := FMap.insert (posOf site) w x.ecc, planFence := pf }
    s1.reportFrom 0x01 i site (s.allotOfIsland i) (b2n transient)
  else
    let n := lpPkg a
    let s1 := s.modPkg n fun x => { x with ce := satAdd x.ce 1, cePass := x.cePass + 1 }
    s1.reportFrom 0x03 (36 + n) (576 + n) (s.allotOfPkg n) (b2n transient)

/-- An uncorrectable error at physical address a: counted, reported and poisoned (R318). -/
def State.noteUe (s : State) (a : Nat) : State :=
  let s1 := (s.noteUnit a false (if a < sramEnd then 0x02 else 0x04)).poison a
  if a < sramEnd then
    let site := a / sliceSize
    let i := islandOf site
    let s2 := s1.modIsland i fun x =>
      let w := FMap.getD x.ecc (posOf site) 0
      { x with ecc := FMap.insert (posOf site) (setFld w 57 48 (min (fld w 57 48 + 1) 1023)) x.ecc }
    s2.reportUe a
  else
    (s1.modPkg (lpPkg a) fun x => { x with ue := min (x.ue + 1) 511 }).reportUe a

/-- An error of the LPDDR5X link that its code corrects: counted and reported, class 0x05 (R311, R317, R342). -/
def State.noteLink (s : State) (a : Nat) : State :=
  let n := lpPkg a
  (s.modPkg n fun x => { x with link := min (x.link + 1) 65535 }).reportFrom 0x05 (36 + n) (576 + n) (s.allotOfPkg n) 0

/-- What the code of one unit answers (R318). -/
def State.applyCheck (s : State) (a : Nat) : ReadCheck → State
  | .clean => s
  | .corrected => s.noteCe a false
  | .transient => s.noteCe a true
  | .uncorrectable => s.noteUe a
  | .link => if a < sramEnd then s else s.noteLink a

/-- The stored errors of ERR_INJ and MEM_INJ in the units that f chooses by first address: a single-bit error is
corrected and written back, a double-bit error poisons its unit (R321). -/
def State.meetWhere (s : State) (f : Nat → Bool) : State :=
  (s.injected.filter fun x => f x.1).foldl (fun s x =>
    let s1 := { s with injected := FMap.erase x.1 s.injected }
    if x.2 = 1 then s1.noteCe x.1 false else s1.noteUe x.1) s

/-- Whether [a, a + n) touches, and whether it covers, the unit with first address u. -/
def touches (a n u : Nat) : Bool := u < a + n && a < u + unitSize u
def covers (a n u : Nat) : Bool := a ≤ u && u + unitSize u ≤ a + n

/-- Stored errors that a read of [a, a + n) meets. -/
def State.meetInjected (s : State) (a n : Nat) : State := s.meetWhere (touches a n)

/-- Stored errors that a write of [a, a + n) meets: a unit it covers in part is read, merged and re-encoded (R316,
R317). -/
def State.mergeUnits (s : State) (a n : Nat) : State := s.meetWhere fun u => touches a n u && !covers a n u

/-! ### Undo logging (R331, R333) and writes -/

/-- What R331 leaves untracked: the Ingot areas by physical address, then rings and exclusions by device address. -/
structure Excluded where
  al : AllotRec
  phys : List (Nat × Nat)
  dev : List (Nat × Nat)

def excludedOf (r : AllotRec) (pl : Plan) (ck : CkptSec) (sp : Spine) : Excluded :=
  { al := r
    phys := r.pkgs.map fun n => (lpBase n + ck.ingotOff, ck.ingotLen)
    dev := [(ck.ringBase, ck.ringLen), (fld sp.vring 51 5 * 32, 32 * 2 ^ fld sp.vring 63 58),
      (pl.stream.hdr.rejBase, 64 * 2 ^ pl.stream.hdr.rejK), (pl.stream.hdr.phBase, 32 * 2 ^ pl.stream.hdr.phK)] ++
      ck.exclusions }

/-- Whether physical address a lies in an excluded range. -/
def Excluded.byte (ex : Excluded) (a : Nat) : Bool :=
  (ex.phys.any fun x => x.1 ≤ a && a < x.1 + x.2) ||
  (ex.dev.any fun x => x.1 ≤ ex.al.device a && ex.al.device a < x.1 + x.2)

/-- A page is untracked when an excluded range covers it whole. -/
def Excluded.page (ex : Excluded) (page : Nat) : Bool :=
  let a := page * 4096
  let d := ex.al.device a
  (ex.phys.any fun x => x.1 ≤ a && a + 4096 ≤ x.1 + x.2) || (ex.dev.any fun x => x.1 ≤ d && d + 4096 ≤ x.1 + x.2)

/-- Copies a page's prior contents into the current undo slot before its first write of the epoch, or loses the
epoch's cut when the copy does not fit (R331, R333). The copy meets the stored errors of the page (R321). -/
def State.logPage (s : State) (p page : Nat) : State :=
  let sp := s.spine p
  match s.record p, sp.plan with
  | some r, some pl =>
    match pl.ckpt with
    | none => s
    | some ck =>
      let ig := sp.ingot
      let pk := lpPkg (page * 4096)
      if ig.none_ && ig.taking.isNone then s
      else if ig.lost || (excludedOf r pl ck sp).page page || (ig.undo.pages.any fun x => x.1 = page) then s
      else if ck.undoLen < FMap.getD ig.undo.bytes pk 0 + 4112 then
        let s1 := s.modSpine p fun sp =>
          { sp with ingot := { sp.ingot with
            lost := true
            forcedPending := true
            exporting := false
            expStatus := (if sp.ingot.exporting then 2 else sp.ingot.expStatus) } }
        s1.reportFrom 0x0E 58 0xFFFF (some p) 0
      else
        let m := s.meetInjected (page * 4096) 4096
        let cells := m.mem.filter fun c => page * 4096 ≤ c.1 && c.1 < page * 4096 + 4096
        let pois (s : State) : List Nat := s.poisonLines.filter fun k => page * 64 ≤ k && k < page * 64 + 64
        let undo : UndoLog := { pages := ig.undo.pages ++ [(page, cells, pois m)],
                                bytes := FMap.insert pk (FMap.getD ig.undo.bytes pk 0 + 4112) ig.undo.bytes }
        let s1 := if pois s = [] then m else m.reportUe (page * 4096)
        s1.modSpine p fun sp => { sp with ingot := { sp.ingot with undo := undo } }
  | _, _ => s

/-- Injects the armed error of ERR_INJ or MEM_INJ at a write that reaches its line, and disarms it (R321). The pattern
is stored in the first unit of the line that the write reaches. -/
def State.inject (s : State) (a n : Nat) : State :=
  let armed (w : Word) : Bool := bit w 0 && fld w 51 6 * 64 < a + n && a < fld w 51 6 * 64 + 64
  let apply (w : Word) (s : State) : State :=
    let u := if a < sramEnd then max a (fld w 51 6 * 64) / 8 * 8 else fld w 51 6 * 64
    if fld w 5 4 = 3 then s.poison u
    else if fld w 5 4 = 0 then s
    else { s with injected := FMap.insert u (fld w 5 4) s.injected }
  if a < sramEnd then
    let i := islandOf (a / sliceSize)
    let w := (s.island i).inj
    if armed w then (apply w s).modIsland i fun x => { x with inj := setFld x.inj 0 0 0 } else s
  else
    let k := lpPkg a
    let w := (s.pkg k).inj
    if armed w then (apply w s).modPkg k fun x => { x with inj := setFld x.inj 0 0 0 } else s

/-- One more spare line in use on the slice or the package that holds line k (R322). -/
def State.useSpare (s : State) (k : Nat) : State :=
  let a := k * 64
  if a < sramEnd then
    s.modIsland (islandOf (a / sliceSize)) fun x =>
      let w := FMap.getD x.ecc (posOf (a / sliceSize)) 0
      { x with ecc := FMap.insert (posOf (a / sliceSize)) (setFld w 63 58 (min (fld w 63 58 + 1) 63)) x.ecc }
  else s.modPkg (lpPkg a) fun x => { x with spares := x.spares + 1 }

/-- A write of whole units: units that have met an error count as rewritten, and a line with a persistent error takes
a spare line (R322). Units are named by their first byte address, lines by number. -/
def State.noteRewrite (s : State) (a n : Nat) : State :=
  let whole (u : Nat) : Bool := a ≤ u && u + unitSize u ≤ a + n
  let line (k : Nat) : Bool := a ≤ k * 64 && k * 64 + 64 ≤ a + n
  let s1 := { s with
    rewritten := s.rewritten ++ s.errUnits.filter fun u => whole u
    errUnits := s.errUnits.filter fun u => !whole u
    remaps := s.remaps.filter fun k => !line k }
  forEach (s.remaps.filter line) s1 State.useSpare

/-- What a write of [a, a + n) does beside the bytes: units covered whole lose their poison and stored errors, and an
armed injection acts (R319, R321, R322). -/
def State.wrote (s : State) (a n : Nat) : State :=
  ({ (s.unpoison a n).noteRewrite a n with injected := s.injected.filter fun x => !covers a n x.1 }).inject a n

/-- Writes bytes at a physical device address; units covered in part are merged (R316, R317). -/
def State.putDev (s : State) (a : Nat) (l : List Byte) : State :=
  let s1 := s.mergeUnits a l.length
  { s1 with mem := Memory.write s1.mem a l }.wrote a l.length

/-- The list with the bytes from address a upward replaced, as `Memory.write` leaves it, for long writes. -/
def Memory.bulk (m : List Cell) (a : Nat) (l : List Byte) : List Cell :=
  (m.filter fun c => c.1 < a) ++ ((((List.range l.length).map (a + ·)).zip l).filter fun c => c.2 ≠ unlisted) ++
    m.filter fun c => a + l.length ≤ c.1

/-- Writes many bytes at a physical device address. -/
def State.putBulk (s : State) (a : Nat) (l : List Byte) : State :=
  let s1 := s.mergeUnits a l.length
  { s1 with mem := Memory.bulk s1.mem a l }.wrote a l.length

/-- Writes n zero bytes at a physical device address. -/
def State.putZeros (s : State) (a n : Nat) : State :=
  let s1 := s.mergeUnits a n
  { s1 with mem := Memory.outside s1.mem a n }.wrote a n

/-- A write at a physical device address for allotment p: its page's undo copy first (R331), then the bytes. -/
def State.storeDev (s : State) (p a : Nat) (l : List Byte) : State :=
  (if a < sramEnd then s else s.logPage p (a / 4096)).putDev a l

/-- Writes physical bytes of a package for allotment p, page by page (R331). -/
def State.storePhys (s : State) (p a : Nat) (l : List Byte) : State :=
  (piecesOf a l.length).foldl (fun s x => s.storeDev p x.1 ((l.drop (x.1 - a)).take x.2)) s

/-- Writes a resolved range. -/
def State.storeLocs (p : Nat) : List (Loc × Nat) → List Byte → State → State
  | [], _, s => s
  | (.dev a, n) :: t, l, s => State.storeLocs p t (l.drop n) (s.storeDev p a (l.take n))
  | (.host k, n) :: t, l, s =>
    State.storeLocs p t (l.drop n) { s with hostMem := Memory.write s.hostMem k (l.take n) }

/-- A write by a requester of allotment p: none is an address fault, and nothing is written (R28). -/
def State.store (s : State) (p a : Nat) (l : List Byte) : Option State :=
  match s.resolveRange p a l.length true with
  | none => none
  | some locs => if s.discards p a l.length then none else some (State.storeLocs p locs l s)

/-- The outcome of a read (R28, R312). -/
inductive ReadResult where
  | fault
  | poison
  | data (l : List Byte)
  deriving DecidableEq, Repr

/-- A read by a requester of allotment p. -/
def State.load (s : State) (p a n : Nat) : ReadResult :=
  match s.resolveRange p a n false with
  | none => .fault
  | some locs => if s.poisonedRange locs then .poison else .data (s.fetch locs)

/-- The bytes of a read, whatever its outcome: used where a rule has already checked the range. -/
def State.peek (s : State) (p a n : Nat) : List Byte :=
  match s.resolveRange p a n false with
  | none => List.replicate n 0
  | some locs => s.fetch locs

/-- A write that a rule does not check: an address fault writes nothing. -/
def State.poke (s : State) (p a : Nat) (l : List Byte) : State := (s.store p a l).getD s

/-- Whether [a, a + n) lies in package n0, in service: the Planisher addresses it physically (R208). -/
def State.inPackage (s : State) (n0 a n : Nat) : Bool := lpBase n0 ≤ a && a + n ≤ lpBase n0 + 0x1200000000 && s.pkgOk n0

/-- Whether the physical range [a, a + n) lies in one package in service that allotment p holds (R28, R361). -/
def State.ownPhys (s : State) (p a n : Nat) : Bool :=
  s.inPackage (lpPkg a) a n && decide (s.allotOfPkg (lpPkg a) = some p)

/-- Work on a list in turn that may end early: the first error, and the state as it then is. -/
def eachOk {α ε : Type} (f : α → State → Except ε Unit × State) : List α → State → Except ε Unit × State
  | [], s => (.ok (), s)
  | x :: t, s => match f x s with
    | (.ok _, s1) => eachOk f t s1
    | e => e

/-- Work whose next part begins where the one before it ended, if it did not fail. -/
def thenOk {ε : Type} (r : Except ε Unit × State) (f : State → Except ε Unit × State) : Except ε Unit × State :=
  match r with
  | (.ok _, s) => f s
  | e => e

/-- A write by a requester of allotment p, as work that an address fault ends. -/
def storeOk (p a : Nat) (l : List Byte) (s : State) : Except Unit Unit × State :=
  match s.store p a l with
  | some s1 => (.ok (), s1)
  | none => (.error (), s)

/-- Bytes at a physical address of a package of allotment p, written without an undo copy, likewise. -/
def putOk (p a : Nat) (l : List Byte) (s : State) : Except Unit Unit × State :=
  if s.ownPhys p a l.length then (.ok (), s.putDev a l) else (.error (), s)

/-- A fresh free value and the state that has used it. -/
def State.freeWord (s : State) : Word × State := (Config.freeWord s.free, { s with free := s.free + 1 })

end Sys2Proof.Machine
end

