-- ==== Sys2Proof/Machine/Encode.lean ====
section
/-! DEFINITION. Instruction words (R291, R298): packing every format, the word of every instruction row, the
instruction a word spells, and the reserved encodings that the word alone decides (R294). -/

namespace Sys2Proof

/-- Bits 38:0 of format Z (R298 Table 5). -/
def FZ.bits (o : FZ) : BitVec 39 := o.z
/-- Reads bits 38:0 as format Z. -/
def FZ.ofBits (x : BitVec 39) : FZ :=
  { z := x.extractLsb' 0 39 }

/-- Bits 38:0 of format B (R298 Table 5). -/
def FB.bits (o : FB) : BitVec 39 := o.tgt ++ o.ra ++ o.rd ++ o.z
/-- Reads bits 38:0 as format B. -/
def FB.ofBits (x : BitVec 39) : FB :=
  { tgt := x.extractLsb' 25 14, ra := x.extractLsb' 21 4, rd := x.extractLsb' 17 4, z := x.extractLsb' 0 17 }

/-- Bits 38:0 of format K (R298 Table 5). -/
def FK.bits (o : FK) : BitVec 39 := o.c ++ o.k ++ o.n ++ o.ra ++ o.cr ++ o.z
/-- Reads bits 38:0 as format K. -/
def FK.ofBits (x : BitVec 39) : FK :=
  { c := x.extractLsb' 30 9, k := x.extractLsb' 24 6, n := x.extractLsb' 8 16, ra := x.extractLsb' 4 4, cr := x.extractLsb' 3 1, z := x.extractLsb' 0 3 }

/-- Bits 38:0 of format S (R298 Table 5). -/
def FS.bits (o : FS) : BitVec 39 := o.rd ++ o.ra ++ o.rb ++ o.ib ++ o.imm
/-- Reads bits 38:0 as format S. -/
def FS.ofBits (x : BitVec 39) : FS :=
  { rd := x.extractLsb' 35 4, ra := x.extractLsb' 31 4, rb := x.extractLsb' 27 4, ib := x.extractLsb' 26 1, imm := x.extractLsb' 0 26 }

/-- Bits 38:0 of format V (R298 Table 5). -/
def FV.bits (o : FV) : BitVec 39 := o.vd ++ o.va ++ o.vb ++ o.bs ++ o.vc ++ o.ty ++ o.rm ++ o.ieee ++ o.cs ++ o.cnt
/-- Reads bits 38:0 as format V. -/
def FV.ofBits (x : BitVec 39) : FV :=
  { vd := x.extractLsb' 34 5, va := x.extractLsb' 29 5, vb := x.extractLsb' 24 5, bs := x.extractLsb' 23 1, vc := x.extractLsb' 18 5, ty := x.extractLsb' 16 2, rm := x.extractLsb' 14 2, ieee := x.extractLsb' 13 1, cs := x.extractLsb' 12 1, cnt := x.extractLsb' 0 12 }

/-- Bits 38:0 of format VM (R298 Table 5). -/
def FVM.bits (o : FVM) : BitVec 39 := o.vr ++ o.td ++ o.ro ++ o.vx ++ o.bd ++ o.ty ++ o.rm ++ o.ieee ++ o.cs ++ o.cnt
/-- Reads bits 38:0 as format VM. -/
def FVM.ofBits (x : BitVec 39) : FVM :=
  { vr := x.extractLsb' 34 5, td := x.extractLsb' 28 6, ro := x.extractLsb' 24 4, vx := x.extractLsb' 19 5, bd := x.extractLsb' 18 1, ty := x.extractLsb' 16 2, rm := x.extractLsb' 14 2, ieee := x.extractLsb' 13 1, cs := x.extractLsb' 12 1, cnt := x.extractLsb' 0 12 }

/-- Bits 38:0 of format VR (R298 Table 5). -/
def FVR.bits (o : FVR) : BitVec 39 := o.rd ++ o.ri ++ o.va ++ o.vb ++ o.tb ++ o.u ++ o.ty ++ o.rm ++ o.ieee ++ o.cs ++ o.cnt
/-- Reads bits 38:0 as format VR. -/
def FVR.ofBits (x : BitVec 39) : FVR :=
  { rd := x.extractLsb' 35 4, ri := x.extractLsb' 31 4, va := x.extractLsb' 26 5, vb := x.extractLsb' 21 5, tb := x.extractLsb' 19 2, u := x.extractLsb' 18 1, ty := x.extractLsb' 16 2, rm := x.extractLsb' 14 2, ieee := x.extractLsb' 13 1, cs := x.extractLsb' 12 1, cnt := x.extractLsb' 0 12 }

/-- Bits 38:0 of format XL (R298 Table 5). -/
def FXL.bits (o : FXL) : BitVec 39 := o.bk ++ o.td ++ o.rt ++ o.pc ++ o.z
/-- Reads bits 38:0 as format XL. -/
def FXL.ofBits (x : BitVec 39) : FXL :=
  { bk := x.extractLsb' 38 1, td := x.extractLsb' 32 6, rt := x.extractLsb' 28 4, pc := x.extractLsb' 26 2, z := x.extractLsb' 0 26 }

/-- Bits 38:0 of format XP (R298 Table 5). -/
def FXP.bits (o : FXP) : BitVec 39 := o.tl ++ o.md ++ o.ty ++ o.ra ++ o.z
/-- Reads bits 38:0 as format XP. -/
def FXP.ofBits (x : BitVec 39) : FXP :=
  { tl := x.extractLsb' 38 1, md := x.extractLsb' 37 1, ty := x.extractLsb' 36 1, ra := x.extractLsb' 32 4, z := x.extractLsb' 0 32 }

/-- Bits 38:0 of format XM (R298 Table 5). -/
def FXM.bits (o : FXM) : BitVec 39 := o.tl ++ o.bk ++ o.t ++ o.m ++ o.r0 ++ o.q ++ o.sf ++ o.pc ++ o.pd ++ o.z
/-- Reads bits 38:0 as format XM. -/
def FXM.ofBits (x : BitVec 39) : FXM :=
  { tl := x.extractLsb' 38 1, bk := x.extractLsb' 37 1, t := x.extractLsb' 36 1, m := x.extractLsb' 31 5, r0 := x.extractLsb' 26 5, q := x.extractLsb' 22 4, sf := x.extractLsb' 19 3, pc := x.extractLsb' 17 2, pd := x.extractLsb' 16 1, z := x.extractLsb' 0 16 }

/-- Bits 38:0 of format XD (R298 Table 5). -/
def FXD.bits (o : FXD) : BitVec 39 := o.tl ++ o.md ++ o.fm ++ o.un ++ o.sw ++ o.lam ++ o.td ++ o.ra ++ o.z1 ++ o.rm ++ o.ieee ++ o.rt ++ o.rx ++ o.rs ++ o.z0
/-- Reads bits 38:0 as format XD. -/
def FXD.ofBits (x : BitVec 39) : FXD :=
  { tl := x.extractLsb' 38 1, md := x.extractLsb' 36 2, fm := x.extractLsb' 32 4, un := x.extractLsb' 31 1, sw := x.extractLsb' 30 1, lam := x.extractLsb' 27 3, td := x.extractLsb' 21 6, ra := x.extractLsb' 17 4, z1 := x.extractLsb' 16 1, rm := x.extractLsb' 14 2, ieee := x.extractLsb' 13 1, rt := x.extractLsb' 9 4, rx := x.extractLsb' 5 4, rs := x.extractLsb' 1 4, z0 := x.extractLsb' 0 1 }

/-- Bits 38:0 of format SP (R298 Table 5). -/
def FSP.bits (o : FSP) : BitVec 39 := o.tl ++ o.ra ++ o.rb ++ o.tag ++ o.z
/-- Reads bits 38:0 as format SP. -/
def FSP.ofBits (x : BitVec 39) : FSP :=
  { tl := x.extractLsb' 38 1, ra := x.extractLsb' 34 4, rb := x.extractLsb' 30 4, tag := x.extractLsb' 14 16, z := x.extractLsb' 0 14 }

/-- Bits 38:0 of format MK (R298 Table 5). -/
def FMK.bits (o : FMK) : BitVec 39 := o.ra ++ o.rb ++ o.rc ++ o.z
/-- Reads bits 38:0 as format MK. -/
def FMK.ofBits (x : BitVec 39) : FMK :=
  { ra := x.extractLsb' 35 4, rb := x.extractLsb' 31 4, rc := x.extractLsb' 27 4, z := x.extractLsb' 0 27 }

/-- Bits 38:0 of format ST (R298 Table 5). -/
def FST.bits (o : FST) : BitVec 39 := o.q ++ o.ra ++ o.rb ++ o.rc ++ o.rd ++ o.z
/-- Reads bits 38:0 as format ST. -/
def FST.ofBits (x : BitVec 39) : FST :=
  { q := x.extractLsb' 35 4, ra := x.extractLsb' 31 4, rb := x.extractLsb' 27 4, rc := x.extractLsb' 23 4, rd := x.extractLsb' 19 4, z := x.extractLsb' 0 19 }

/-- Bits 38:0 of format Q (R298 Table 5). -/
def FQ.bits (o : FQ) : BitVec 39 := o.vd ++ o.q ++ o.kk ++ o.ty ++ o.z
/-- Reads bits 38:0 as format Q. -/
def FQ.ofBits (x : BitVec 39) : FQ :=
  { vd := x.extractLsb' 34 5, q := x.extractLsb' 30 4, kk := x.extractLsb' 18 12, ty := x.extractLsb' 16 2, z := x.extractLsb' 0 16 }

/-- Bits 38:0 of format D (R298 Table 5). -/
def FD.bits (o : FD) : BitVec 39 := o.ch ++ o.ra ++ o.z
/-- Reads bits 38:0 as format D. -/
def FD.ofBits (x : BitVec 39) : FD :=
  { ch := x.extractLsb' 34 5, ra := x.extractLsb' 30 4, z := x.extractLsb' 0 30 }

/-- Bits 38:0 of format U (R298 Table 5). -/
def FU.bits (o : FU) : BitVec 39 := o.ra ++ o.rb ++ o.rx ++ o.rd ++ o.blk ++ o.rows ++ o.nx ++ o.init ++ o.last ++ o.pb ++ o.rp ++ o.z
/-- Reads bits 38:0 as format U. -/
def FU.ofBits (x : BitVec 39) : FU :=
  { ra := x.extractLsb' 35 4, rb := x.extractLsb' 31 4, rx := x.extractLsb' 27 4, rd := x.extractLsb' 23 4, blk := x.extractLsb' 18 5, rows := x.extractLsb' 13 5, nx := x.extractLsb' 12 1, init := x.extractLsb' 11 1, last := x.extractLsb' 10 1, pb := x.extractLsb' 9 1, rp := x.extractLsb' 5 4, z := x.extractLsb' 0 5 }

/-- Bits 38:0 of format RN (R298 Table 5). -/
def FRN.bits (o : FRN) : BitVec 39 := o.vd ++ o.vs ++ o.rk ++ o.rb ++ o.z1 ++ o.ty ++ o.z0 ++ o.cs ++ o.cnt
/-- Reads bits 38:0 as format RN. -/
def FRN.ofBits (x : BitVec 39) : FRN :=
  { vd := x.extractLsb' 34 5, vs := x.extractLsb' 29 5, rk := x.extractLsb' 25 4, rb := x.extractLsb' 21 4, z1 := x.extractLsb' 18 3, ty := x.extractLsb' 16 2, z0 := x.extractLsb' 13 3, cs := x.extractLsb' 12 1, cnt := x.extractLsb' 0 12 }

/-- Bits 38:0 of format PW (R298 Table 5). -/
def FPW.bits (o : FPW) : BitVec 39 := o.ra ++ o.k ++ o.z
/-- Reads bits 38:0 as format PW. -/
def FPW.ofBits (x : BitVec 39) : FPW :=
  { ra := x.extractLsb' 35 4, k := x.extractLsb' 27 8, z := x.extractLsb' 0 27 }

/-- Operand b of a scalar operation: ib = 0 leaves imm at 0, ib = 1 leaves rb at 0 (R300). -/
def FS.bOk (o : FS) : Bool := if o.ib = 1 then o.rb = 0 else o.imm = 0

/-- A count field: with cs = 1 bits 11:4 are 0 (R296). -/
def cntOk (cs : BitVec 1) (cnt : BitVec 12) : Bool := cs = 0 || cnt.toNat < 16

/-- rm and ieee by what a row's rm column says, for a target type code (R81, R296, R303). -/
def rmZero (rm : BitVec 2) (ieee : BitVec 1) : Bool := rm = 0 && ieee = 0
def rmFor (rm : BitVec 2) (target : BitVec 2) : Bool := rm ≠ 3 && (rm ≠ 2 || target = 2 || target = 3)
def rmFp (rm : BitVec 2) (ieee : BitVec 1) (ty : BitVec 2) : Bool := if ty = 1 then rmZero rm ieee else rmFor rm ty

/-- Operand b of a V-format row: with bs = 1 bit 28 is 0. -/
def FV.bOk (o : FV) : Bool := (o.bs = 0 || o.vb.toNat < 16) && cntOk o.cs o.cnt
/-- A V-format row without operand b. -/
def FV.noB (o : FV) : Bool := o.vb = 0 && o.bs = 0 && cntOk o.cs o.cnt
def FV.intOnly (o : FV) : Bool := o.bOk && o.vc = 0 && o.ty = 1 && rmZero o.rm o.ieee
def FV.plain (o : FV) : Bool := o.bOk && o.vc = 0 && rmFp o.rm o.ieee o.ty
def FV.unRm (o : FV) : Bool := o.noB && o.vc = 0 && o.ty ≠ 1 && rmFor o.rm o.ty
def FV.noRm (o : FV) : Bool := rmZero o.rm o.ieee
def FVR.red (o : FVR) : Bool := o.rm = 0 && o.u = 0 && o.vb = 0 && o.tb = 0 && cntOk o.cs o.cnt

end Sys2Proof

namespace Sys2Proof.Machine

/-- The fields common to every word, below class and operation (R291 Table 1). -/
def wordOf (cls op : Nat) (i : Issue) (x : BitVec 39) : Word :=
  BitVec.ofNat 4 cls ++ BitVec.ofNat 6 op ++ i.pr ++ i.pn ++ i.wm ++ i.sb ++ x

/-- The common fields of a word that site offers. -/
def issueOf (site : Nat) (w : Word) : Issue :=
  { site := site, pr := w.extractLsb' 51 3, pn := w.extractLsb' 50 1, wm := w.extractLsb' 42 8,
    sb := w.extractLsb' 39 3 }

/-- Class, operation, common fields and operands of an instruction row (R299, R300, R303, R305, R307). -/
def parts : Instr → Option (Nat × Nat × Issue × BitVec 39)
  | .ctlNop i o => some (0x0, 0x00, i, o.bits)
  | .ctlHalt i o => some (0x0, 0x01, i, o.bits)
  | .ctlBr i o => some (0x0, 0x02, i, o.bits)
  | .ctlJal i o => some (0x0, 0x03, i, o.bits)
  | .ctlJr i o => some (0x0, 0x04, i, o.bits)
  | .ctlWhl i o => some (0x0, 0x08, i, o.bits)
  | .ctlBar i o => some (0x0, 0x09, i, o.bits)
  | .ctlSig i o => some (0x0, 0x0A, i, o.bits)
  | .ctlSwt i o => some (0x0, 0x0B, i, o.bits)
  | .scAdd i o => some (0x1, 0x00, i, o.bits)
  | .scSub i o => some (0x1, 0x01, i, o.bits)
  | .scMul i o => some (0x1, 0x02, i, o.bits)
  | .scAnd i o => some (0x1, 0x03, i, o.bits)
  | .scOr i o => some (0x1, 0x04, i, o.bits)
  | .scXor i o => some (0x1, 0x05, i, o.bits)
  | .scShl i o => some (0x1, 0x06, i, o.bits)
  | .scShr i o => some (0x1, 0x07, i, o.bits)
  | .scShru i o => some (0x1, 0x08, i, o.bits)
  | .scMin i o => some (0x1, 0x09, i, o.bits)
  | .scMax i o => some (0x1, 0x0A, i, o.bits)
  | .scMinu i o => some (0x1, 0x0B, i, o.bits)
  | .scMaxu i o => some (0x1, 0x0C, i, o.bits)
  | .scLi i o => some (0x1, 0x0D, i, o.bits)
  | .scSli i o => some (0x1, 0x0E, i, o.bits)
  | .scCeq i o => some (0x1, 0x10, i, o.bits)
  | .scCne i o => some (0x1, 0x11, i, o.bits)
  | .scClt i o => some (0x1, 0x12, i, o.bits)
  | .scCle i o => some (0x1, 0x13, i, o.bits)
  | .scCltu i o => some (0x1, 0x14, i, o.bits)
  | .scCleu i o => some (0x1, 0x15, i, o.bits)
  | .scPset i o => some (0x1, 0x16, i, o.bits)
  | .scLd i o => some (0x1, 0x18, i, o.bits)
  | .scLdw i o => some (0x1, 0x19, i, o.bits)
  | .scSt i o => some (0x1, 0x1A, i, o.bits)
  | .scStw i o => some (0x1, 0x1B, i, o.bits)
  | .scFlg i o => some (0x1, 0x1C, i, o.bits)
  | .scFlgc i o => some (0x1, 0x1D, i, o.bits)
  | .scCsr i o => some (0x1, 0x1E, i, o.bits)
  | .vAdd i o => some (0x5, 0x00, i, o.bits)
  | .vSub i o => some (0x5, 0x01, i, o.bits)
  | .vMul i o => some (0x5, 0x02, i, o.bits)
  | .vFma i o => some (0x5, 0x03, i, o.bits)
  | .vMax i o => some (0x5, 0x04, i, o.bits)
  | .vMin i o => some (0x5, 0x05, i, o.bits)
  | .vAbs i o => some (0x5, 0x06, i, o.bits)
  | .vNeg i o => some (0x5, 0x07, i, o.bits)
  | .vDiv i o => some (0x5, 0x08, i, o.bits)
  | .vSqrt i o => some (0x5, 0x09, i, o.bits)
  | .vExp2 i o => some (0x5, 0x0A, i, o.bits)
  | .vLog2 i o => some (0x5, 0x0B, i, o.bits)
  | .vIadd i o => some (0x5, 0x0C, i, o.bits)
  | .vIsub i o => some (0x5, 0x0D, i, o.bits)
  | .vImul i o => some (0x5, 0x0E, i, o.bits)
  | .vAnd i o => some (0x5, 0x0F, i, o.bits)
  | .vOr i o => some (0x5, 0x10, i, o.bits)
  | .vXor i o => some (0x5, 0x11, i, o.bits)
  | .vShl i o => some (0x5, 0x12, i, o.bits)
  | .vShr i o => some (0x5, 0x13, i, o.bits)
  | .vShru i o => some (0x5, 0x14, i, o.bits)
  | .vCvt i o => some (0x5, 0x15, i, o.bits)
  | .vCeq i o => some (0x5, 0x16, i, o.bits)
  | .vCne i o => some (0x5, 0x17, i, o.bits)
  | .vClt i o => some (0x5, 0x18, i, o.bits)
  | .vCle i o => some (0x5, 0x19, i, o.bits)
  | .vCgt i o => some (0x5, 0x1A, i, o.bits)
  | .vCge i o => some (0x5, 0x1B, i, o.bits)
  | .vCun i o => some (0x5, 0x1C, i, o.bits)
  | .vSel i o => some (0x5, 0x1D, i, o.bits)
  | .vPack i o => some (0x5, 0x1E, i, o.bits)
  | .vUnpk i o => some (0x5, 0x1F, i, o.bits)
  | .vPerm i o => some (0x5, 0x20, i, o.bits)
  | .vBcast i o => some (0x5, 0x21, i, o.bits)
  | .vTr32 i o => some (0x5, 0x22, i, o.bits)
  | .vIns i o => some (0x5, 0x23, i, o.bits)
  | .vLd i o => some (0x5, 0x28, i, o.bits)
  | .vSt i o => some (0x5, 0x29, i, o.bits)
  | .vGth i o => some (0x5, 0x2A, i, o.bits)
  | .vSct i o => some (0x5, 0x2B, i, o.bits)
  | .vSadd i o => some (0x5, 0x2C, i, o.bits)
  | .vSum i o => some (0x5, 0x30, i, o.bits)
  | .vSsq i o => some (0x5, 0x31, i, o.bits)
  | .vDot i o => some (0x5, 0x32, i, o.bits)
  | .vRmax i o => some (0x5, 0x33, i, o.bits)
  | .vRmin i o => some (0x5, 0x34, i, o.bits)
  | .vMv i o => some (0x5, 0x35, i, o.bits)
  | .vCnt i o => some (0x5, 0x36, i, o.bits)
  | .vExt i o => some (0x5, 0x37, i, o.bits)
  | .mxLdw i o => some (0x2, 0x00, i, o.bits)
  | .mxPre i o => some (0x2, 0x01, i, o.bits)
  | .mxMul i o => some (0x2, 0x02, i, o.bits)
  | .mxDrn i o => some (0x2, 0x03, i, o.bits)
  | .spPrd i o => some (0x3, 0x00, i, o.bits)
  | .mkCap i o => some (0x4, 0x00, i, o.bits)
  | .stReq i o => some (0x6, 0x00, i, o.bits)
  | .stPop i o => some (0x6, 0x01, i, o.bits)
  | .stRel i o => some (0x6, 0x02, i, o.bits)
  | .dmGo i o => some (0x7, 0x00, i, o.bits)
  | .dmStop i o => some (0x7, 0x01, i, o.bits)
  | .upAcc i o => some (0x8, 0x00, i, o.bits)
  | .upFin i o => some (0x8, 0x01, i, o.bits)
  | .rnDrop i o => some (0x9, 0x00, i, o.bits)
  | .rnWord i o => some (0x9, 0x01, i, o.bits)
  | .pwRamp i o => some (0xA, 0x00, i, o.bits)
  | .pwBsel i o => some (0xA, 0x01, i, o.bits)
  | _ => none

/-- The 64-bit word of an instruction row; the other rows have none. -/
def encode (x : Instr) : Option Word :=
  match parts x with
  | some (cls, op, i, b) => some (wordOf cls op i b)
  | none => none

/-- The instruction row with class and operation cls × 64 + op, if the class tables have it. -/
def instrOf (key : Nat) (i : Issue) (x : BitVec 39) : Option Instr :=
  match key with
  | 0 => some (.ctlNop i (.ofBits x))
  | 1 => some (.ctlHalt i (.ofBits x))
  | 2 => some (.ctlBr i (.ofBits x))
  | 3 => some (.ctlJal i (.ofBits x))
  | 4 => some (.ctlJr i (.ofBits x))
  | 8 => some (.ctlWhl i (.ofBits x))
  | 9 => some (.ctlBar i (.ofBits x))
  | 10 => some (.ctlSig i (.ofBits x))
  | 11 => some (.ctlSwt i (.ofBits x))
  | 64 => some (.scAdd i (.ofBits x))
  | 65 => some (.scSub i (.ofBits x))
  | 66 => some (.scMul i (.ofBits x))
  | 67 => some (.scAnd i (.ofBits x))
  | 68 => some (.scOr i (.ofBits x))
  | 69 => some (.scXor i (.ofBits x))
  | 70 => some (.scShl i (.ofBits x))
  | 71 => some (.scShr i (.ofBits x))
  | 72 => some (.scShru i (.ofBits x))
  | 73 => some (.scMin i (.ofBits x))
  | 74 => some (.scMax i (.ofBits x))
  | 75 => some (.scMinu i (.ofBits x))
  | 76 => some (.scMaxu i (.ofBits x))
  | 77 => some (.scLi i (.ofBits x))
  | 78 => some (.scSli i (.ofBits x))
  | 80 => some (.scCeq i (.ofBits x))
  | 81 => some (.scCne i (.ofBits x))
  | 82 => some (.scClt i (.ofBits x))
  | 83 => some (.scCle i (.ofBits x))
  | 84 => some (.scCltu i (.ofBits x))
  | 85 => some (.scCleu i (.ofBits x))
  | 86 => some (.scPset i (.ofBits x))
  | 88 => some (.scLd i (.ofBits x))
  | 89 => some (.scLdw i (.ofBits x))
  | 90 => some (.scSt i (.ofBits x))
  | 91 => some (.scStw i (.ofBits x))
  | 92 => some (.scFlg i (.ofBits x))
  | 93 => some (.scFlgc i (.ofBits x))
  | 94 => some (.scCsr i (.ofBits x))
  | 320 => some (.vAdd i (.ofBits x))
  | 321 => some (.vSub i (.ofBits x))
  | 322 => some (.vMul i (.ofBits x))
  | 323 => some (.vFma i (.ofBits x))
  | 324 => some (.vMax i (.ofBits x))
  | 325 => some (.vMin i (.ofBits x))
  | 326 => some (.vAbs i (.ofBits x))
  | 327 => some (.vNeg i (.ofBits x))
  | 328 => some (.vDiv i (.ofBits x))
  | 329 => some (.vSqrt i (.ofBits x))
  | 330 => some (.vExp2 i (.ofBits x))
  | 331 => some (.vLog2 i (.ofBits x))
  | 332 => some (.vIadd i (.ofBits x))
  | 333 => some (.vIsub i (.ofBits x))
  | 334 => some (.vImul i (.ofBits x))
  | 335 => some (.vAnd i (.ofBits x))
  | 336 => some (.vOr i (.ofBits x))
  | 337 => some (.vXor i (.ofBits x))
  | 338 => some (.vShl i (.ofBits x))
  | 339 => some (.vShr i (.ofBits x))
  | 340 => some (.vShru i (.ofBits x))
  | 341 => some (.vCvt i (.ofBits x))
  | 342 => some (.vCeq i (.ofBits x))
  | 343 => some (.vCne i (.ofBits x))
  | 344 => some (.vClt i (.ofBits x))
  | 345 => some (.vCle i (.ofBits x))
  | 346 => some (.vCgt i (.ofBits x))
  | 347 => some (.vCge i (.ofBits x))
  | 348 => some (.vCun i (.ofBits x))
  | 349 => some (.vSel i (.ofBits x))
  | 350 => some (.vPack i (.ofBits x))
  | 351 => some (.vUnpk i (.ofBits x))
  | 352 => some (.vPerm i (.ofBits x))
  | 353 => some (.vBcast i (.ofBits x))
  | 354 => some (.vTr32 i (.ofBits x))
  | 355 => some (.vIns i (.ofBits x))
  | 360 => some (.vLd i (.ofBits x))
  | 361 => some (.vSt i (.ofBits x))
  | 362 => some (.vGth i (.ofBits x))
  | 363 => some (.vSct i (.ofBits x))
  | 364 => some (.vSadd i (.ofBits x))
  | 368 => some (.vSum i (.ofBits x))
  | 369 => some (.vSsq i (.ofBits x))
  | 370 => some (.vDot i (.ofBits x))
  | 371 => some (.vRmax i (.ofBits x))
  | 372 => some (.vRmin i (.ofBits x))
  | 373 => some (.vMv i (.ofBits x))
  | 374 => some (.vCnt i (.ofBits x))
  | 375 => some (.vExt i (.ofBits x))
  | 128 => some (.mxLdw i (.ofBits x))
  | 129 => some (.mxPre i (.ofBits x))
  | 130 => some (.mxMul i (.ofBits x))
  | 131 => some (.mxDrn i (.ofBits x))
  | 192 => some (.spPrd i (.ofBits x))
  | 256 => some (.mkCap i (.ofBits x))
  | 384 => some (.stReq i (.ofBits x))
  | 385 => some (.stPop i (.ofBits x))
  | 386 => some (.stRel i (.ofBits x))
  | 448 => some (.dmGo i (.ofBits x))
  | 449 => some (.dmStop i (.ofBits x))
  | 512 => some (.upAcc i (.ofBits x))
  | 513 => some (.upFin i (.ofBits x))
  | 576 => some (.rnDrop i (.ofBits x))
  | 577 => some (.rnWord i (.ofBits x))
  | 640 => some (.pwRamp i (.ofBits x))
  | 641 => some (.pwBsel i (.ofBits x))
  | _ => none

/-- The instruction that word w spells when site offers it; none is an operation absent from its class table. -/
def decode (site : Nat) (w : Word) : Option Instr := instrOf (fld w 63 54) (issueOf site w) (w.extractLsb' 0 39)

/-! ### Reserved encodings (R294) -/

/-- Whether the operation names a scoreboard entry (the sb column of the class tables). -/
def namesSb : Instr → Bool
  | .scLd .. | .scLdw .. | .scSt .. | .scStw .. | .vLd .. | .vSt .. | .vGth .. | .vSct .. | .vSadd ..
  | .mxLdw .. | .mxPre .. | .mxDrn .. | .spPrd .. | .mkCap .. | .stReq .. | .stPop .. | .dmGo .. | .upAcc ..
  | .pwRamp .. => true
  | _ => false

/-- The word's own conditions of R294: every unused field 0, every field at a permitted value, every permitted
combination. The rest is decided by unit state at issue. -/
def fieldsOk : Instr → Bool
  | .ctlNop _ o | .ctlHalt _ o | .upFin _ o => o.z = 0
  | .ctlBr _ o => o.ra = 0 && o.rd = 0 && o.z = 0
  | .ctlJal _ o => o.ra = 0 && o.z = 0
  | .ctlJr _ o => o.tgt = 0 && o.rd = 0 && o.z = 0
  | .ctlWhl _ o => o.k.toNat < 8 && o.c = 0 && o.n = 0 && o.ra = 0 && o.cr = 0 && o.z = 0
  | .ctlBar _ o => o.k.toNat < 16 && o.n ≠ 0 && o.c = 0 && o.ra = 0 && o.cr = 0 && o.z = 0
  | .ctlSig _ o => (if o.cr = 1 then o.c = 0 else o.ra = 0) && o.z = 0
  | .ctlSwt _ o => o.c = 0 && o.ra = 0 && o.cr = 0 && o.z = 0
  | .scAdd _ o | .scSub _ o | .scMul _ o | .scAnd _ o | .scOr _ o | .scXor _ o | .scShl _ o | .scShr _ o
  | .scShru _ o | .scMin _ o | .scMax _ o | .scMinu _ o | .scMaxu _ o => o.bOk
  | .scLi _ o => o.ra = 0 && o.rb = 0 && o.ib = 1
  | .scSli _ o => o.rb = 0 && o.ib = 1
  | .scCeq _ o | .scCne _ o | .scClt _ o | .scCle _ o | .scCltu _ o | .scCleu _ o => o.bOk && o.rd.toNat < 8
  | .scPset _ o => o.rd.toNat < 8 && o.ra.toNat < 8 && o.rb.toNat < 8 && o.ib = 1 && o.imm.toNat < 16
  | .scLd _ o | .scLdw _ o => o.ib = 1 && o.rb = 0
  | .scSt _ o | .scStw _ o => o.ib = 1 && o.rd = 0
  | .scFlg _ o | .scFlgc _ o => o.ra = 0 && o.rb = 0 && o.ib = 0 && o.imm = 0
  | .scCsr _ o => o.ra = 0 && o.rb = 0 && o.ib = 1 && o.imm.toNat % 8 = 0 && o.imm.toNat ≤ 0xFFFF8
  | .vAdd _ o | .vSub _ o | .vMul _ o => o.plain
  | .vFma _ o => o.bOk && o.ty ≠ 1 && rmFor o.rm o.ty
  | .vMax _ o | .vMin _ o => o.bOk && o.vc = 0 && o.noRm
  | .vAbs _ o | .vNeg _ o => o.noB && o.vc = 0 && o.noRm
  | .vDiv _ o => o.bOk && o.vc = 0 && o.ty ≠ 1 && rmFor o.rm o.ty
  | .vSqrt _ o | .vExp2 _ o | .vLog2 _ o => o.unRm
  | .vIadd _ o | .vIsub _ o | .vImul _ o | .vAnd _ o | .vOr _ o | .vXor _ o | .vShl _ o | .vShr _ o
  | .vShru _ o => o.intOnly
  | .vCvt _ o => o.noB && o.vc.toNat < 4 && o.vc.toNat ≠ o.ty.toNat && rmFor o.rm (o.vc.setWidth 2)
  | .vCeq _ o | .vCne _ o | .vClt _ o | .vCle _ o | .vCgt _ o | .vCge _ o | .vCun _ o =>
    o.bOk && o.vc = 0 && o.noRm
  | .vSel _ o => o.bOk && o.noRm
  | .vPack _ o => o.bs = 0 && o.vc.toNat < 16 && cntOk o.cs o.cnt && o.noRm
  | .vUnpk _ o | .vPerm _ o => o.bs = 0 && o.vc = 0 && cntOk o.cs o.cnt && o.noRm
  | .vBcast _ o => o.bs = 1 && o.bOk && o.vc = 0 && o.noRm
  | .vTr32 _ o => o.noB && o.vc = 0 && o.noRm && (o.cs = 1 || (o.cnt.toNat + 1) % 1024 = 0)
  | .vIns _ o => o.va.toNat < 16 && o.bs = 1 && o.vb.toNat < 16 && o.vc = 0 && o.cs = 0 && o.cnt = 0 && o.noRm
  | .vLd _ o => o.vx = 0 && o.bd = 0 && rmFor o.rm o.ty && cntOk o.cs o.cnt
  | .vSt _ o => o.vx = 0 && o.bd = 0 && o.rm ≠ 3 && cntOk o.cs o.cnt
  | .vGth _ o => o.ro = 0 && rmFor o.rm o.ty && cntOk o.cs o.cnt
  | .vSct _ o => o.ro = 0 && o.rm ≠ 3 && cntOk o.cs o.cnt
  | .vSadd _ o => o.ro = 0 && o.rm = 0 && cntOk o.cs o.cnt
  | .vSum _ o | .vSsq _ o | .vRmax _ o | .vRmin _ o => o.red
  | .vDot _ o => o.rm = 0 && o.u = 0 && cntOk o.cs o.cnt
  | .vMv _ o => o.ri = 0 && o.vb = 0 && o.tb = 0 && o.ty ≠ 1 && o.rm = 0 && cntOk o.cs o.cnt
  | .vCnt _ o => o.red && o.ri = 0 && o.ty = 1 && o.ieee = 0
  | .vExt _ o => o.red && o.ieee = 0 && o.cs = 0 && o.cnt = 0
  | .mxLdw _ o => o.z = 0
  | .mxPre _ o => o.z = 0
  | .mxMul _ o => o.z = 0 && o.sf ≠ 7 && ((o.sf = 0) = (o.pc ≠ 0)) && o.r0.toNat + o.m.toNat + 1 ≤ 32 &&
      (o.pd = 0 || o.t = 0)
  | .mxDrn _ o => o.z1 = 0 && o.z0 = 0 && (2 ≤ o.md.toNat || (o.td = 0 && o.lam = 0 && o.rt = 0)) &&
      (o.md = 1 || o.md = 3 || o.rs = 0) && (o.sw = 1 || o.rx = 0) && o.fm.toNat ≤ 9 && o.fm ≠ 8 && o.rm ≠ 3 &&
      (o.rm ≠ 2 || (o.fm ≠ 0 && o.fm ≠ 5))
  | .spPrd _ o => o.z = 0
  | .mkCap _ o => o.z = 0
  | .stReq _ o => o.z = 0
  | .stPop _ o => o.kk = 0 && o.z = 0
  | .stRel _ o => o.vd = 0 && o.ty = 0 && o.z = 0
  | .dmGo _ o => o.z = 0
  | .dmStop _ o => o.ra = 0 && o.z = 0
  | .upAcc _ o => o.blk.toNat + o.rows.toNat + 1 ≤ 32 && (o.nx = 0 || o.rx = 0) && (o.pb = 1 || o.rp = 0) && o.z = 0
  | .rnDrop _ o => o.z1 = 0 && o.z0 = 0 && o.ty ≠ 1 && cntOk o.cs o.cnt
  | .rnWord _ o => o.z1 = 0 && o.z0 = 0 && o.ty = 1 && o.vs = 0 && cntOk o.cs o.cnt
  | .pwRamp _ o => o.z = 0
  | .pwBsel _ o => o.ra = 0 && o.z = 0
  | _ => true

/-- A word that R294 reserves whatever the units hold: no row, a field that must be 0, or sb in an instruction that
names no entry. -/
def reservedWord (w : Word) : Bool :=
  match decode 0 w with
  | none => true
  | some x => !fieldsOk x || (!namesSb x && (issueOf 0 w).sb ≠ 0)

end Sys2Proof.Machine
end

