-- ==== Sys2Proof/Machine/Flags.lean ====
section
/-! DEFINITION. The five sticky flags (R90) as a flag word, and the registers that collect them (R91). -/

namespace Sys2Proof.Machine

/-- The flag word of R90: bit 0 invalid, 1 overflow, 2 underflow, 3 inexact, 4 NaN-seen. -/
abbrev Flags := BitVec 5

def fNone : Flags := 0
def fInvalid : Flags := 1
def fOverflow : Flags := 2
def fUnderflow : Flags := 4
def fInexact : Flags := 8
def fNan : Flags := 16

/-- f when c holds. -/
def fIf (c : Bool) (f : Flags) : Flags := if c then f else 0

/-- An instruction sets flags and never clears them (R90). -/
def Thread.setFlags (t : Thread) (f : Flags) : Thread := { t with flags := t.flags ||| f }

end Sys2Proof.Machine
end

