-- ==== Sys2Proof/Machine/Num.lean ====
section
/-! DEFINITION. Number formats and conversions: exact values, the one rounding of R82, conversions (R84–R89), the
exactly rounded operations of the vector engine (R92–R94, R232, R233), CB4 (R76, R77), G16 (R79, R80), pieces (R97),
chunks (R112, R113) and the counter-based generator (R186). -/

namespace Sys2Proof.Machine

/-- A value: NaN, an infinity, or (−1)^neg × m × 2^q exactly. -/
inductive Val where
  | nan
  | inf (neg : Bool)
  | fin (neg : Bool) (m : Nat) (q : Int)
  deriving DecidableEq, Repr

/-- The floating-point formats of R72. -/
inductive FFmt where
  | fp32
  | bf16
  | fp16
  | e5m2
  | e4m3
  deriving DecidableEq, Repr

/-- Mantissa bits (R72 Table 1). -/
def FFmt.mbits : FFmt → Nat
  | .fp32 => 23 | .bf16 => 7 | .fp16 => 10 | .e5m2 => 2 | .e4m3 => 3
def FFmt.ebits : FFmt → Nat
  | .fp32 => 8 | .bf16 => 8 | .fp16 => 5 | .e5m2 => 5 | .e4m3 => 4
def FFmt.bias : FFmt → Nat
  | .fp32 => 127 | .bf16 => 127 | .fp16 => 15 | .e5m2 => 15 | .e4m3 => 7
/-- Minimum normal exponent. -/
def FFmt.emin (f : FFmt) : Int := 1 - (f.bias : Int)
/-- Bits of an element. -/
def FFmt.bits (f : FFmt) : Nat := 1 + f.ebits + f.mbits
/-- Largest finite value as m × 2^q (R73 Table 2). -/
def FFmt.maxM : FFmt → Nat
  | .fp32 => 2 ^ 24 - 1 | .bf16 => 2 ^ 8 - 1 | .fp16 => 2 ^ 11 - 1 | .e5m2 => 7 | .e4m3 => 7
def FFmt.maxQ : FFmt → Int
  | .fp32 => 104 | .bf16 => 120 | .fp16 => 5 | .e5m2 => 13 | .e4m3 => 6
/-- The canonical NaN (R73). -/
def FFmt.nan : FFmt → Nat
  | .fp32 => 0x7FC00000 | .bf16 => 0x7FC0 | .fp16 => 0x7E00 | .e5m2 => 0x7E | .e4m3 => 0x7F

/-- m × 2^k for a natural shift k of either sign, truncating. -/
def shiftNat (m : Nat) (k : Int) : Nat := if 0 ≤ k then m <<< k.toNat else m >>> (-k).toNat

/-- The value of a bit pattern (R72, R73). -/
def FFmt.decode (f : FFmt) (x : Nat) : Val :=
  let m := x % 2 ^ f.mbits
  let e := (x >>> f.mbits) % 2 ^ f.ebits
  let sg := (x >>> (f.mbits + f.ebits)) % 2 = 1
  if e = 2 ^ f.ebits - 1 then
    match f with
    | .e4m3 => if m = 7 then .nan else .fin sg (m + 8) (15 - 7 - 3)
    | _ => if m = 0 then .inf sg else .nan
  else if e = 0 then .fin sg m (1 - (f.bias : Int) - f.mbits)
  else .fin sg (m + 2 ^ f.mbits) ((e : Int) - f.bias - f.mbits)

/-- The bit pattern of a value that the format represents. -/
def FFmt.encode (f : FFmt) (v : Val) : Nat :=
  let s (neg : Bool) : Nat := if neg then 2 ^ (f.mbits + f.ebits) else 0
  match v with
  | .nan => f.nan
  | .inf neg => s neg + (2 ^ f.ebits - 1) * 2 ^ f.mbits
  | .fin neg m q =>
    if m = 0 then s neg
    else
      let e : Int := (Nat.log2 m : Int) + q
      if e < f.emin then s neg + shiftNat m (q - (f.emin - f.mbits))
      else s neg + (e + f.bias).toNat * 2 ^ f.mbits + (shiftNat m (q - (e - f.mbits)) - 2 ^ f.mbits)

/-- Rounding modes of R81; SR carries the generator's 16 bits for the value. -/
inductive Rnd where
  | rne
  | rtz
  | sr (r16 : Nat)
  deriving DecidableEq, Repr

/-- round() of R82 for a last place of weight 2^lsb: the rounded integer and whether a residue was lost. -/
def roundAt (m : Nat) (q lsb : Int) (md : Rnd) : Nat × Bool :=
  if lsb ≤ q then (m <<< (q - lsb).toNat, false)
  else
    let sh := (lsb - q).toNat
    let t := m >>> sh
    let rem := m - t <<< sh
    let up := match md with
      | .rne => decide (2 ^ (sh - 1) < rem) || (rem = 2 ^ (sh - 1) && t % 2 = 1)
      | .rtz => false
      | .sr r => decide (r < ((rem <<< 16) >>> sh) % 65536)
    (if up then t + 1 else t, decide (rem ≠ 0))

/-- The last place of a nonzero m × 2^q in a format (R82). -/
def FFmt.lsb (f : FFmt) (m : Nat) (q : Int) : Int :=
  let e : Int := (Nat.log2 m : Int) + q
  (if e < f.emin then f.emin else e) - f.mbits

/-- Compares m × 2^q with m' × 2^q'. -/
def magLt (m : Nat) (q : Int) (m' : Nat) (q' : Int) : Bool :=
  if m = 0 then decide (m' ≠ 0)
  else if m' = 0 then false
  else
    let e : Int := (Nat.log2 m : Int) + q
    let e' : Int := (Nat.log2 m' : Int) + q'
    if e < e' then true else if e' < e then false
    else if q ≤ q' then decide (m < m' <<< (q' - q).toNat) else decide (m <<< (q - q').toNat < m')

/-- Conversion to a floating-point target with its flags (R84, R85, R86). -/
def roundFp (f : FFmt) (md : Rnd) (ieee : Bool) (v : Val) : Val × Flags :=
  match v with
  | .nan => (.nan, fNan)
  | .inf neg =>
    match f with
    | .e4m3 => if ieee then (.nan, fInvalid ||| fNan) else (.fin neg f.maxM f.maxQ, fOverflow)
    | _ => (.inf neg, 0)
  | .fin neg m q =>
    if m = 0 then (.fin neg 0 0, 0)
    else
      let l := f.lsb m q
      let (t, inx) := if l ≤ q then (m, false) else roundAt m q l md
      let l' := if l ≤ q then q else l
      if magLt f.maxM f.maxQ t l' then
        if !ieee then (.fin neg f.maxM f.maxQ, fOverflow ||| fInexact)
        else match f with
          | .e4m3 => (.nan, fOverflow ||| fInexact ||| fInvalid ||| fNan)
          | _ => (.inf neg, fOverflow ||| fInexact)
      else (.fin neg t l', fIf inx fInexact ||| fIf (inx && magLt t l' 1 f.emin) fUnderflow)

/-- Rounds to a format and encodes. -/
def toFp (f : FFmt) (md : Rnd) (ieee : Bool) (v : Val) : Nat × Flags :=
  let (r, fl) := roundFp f md ieee v
  (f.encode r, fl)

/-- The bounds of a w-bit two's complement integer. -/
def intMax (w : Nat) : Int := 2 ^ (w - 1) - 1
def intMin (w : Nat) : Int := -(2 ^ (w - 1))

/-- Conversion of a floating-point value to a w-bit integer (R87). -/
def toInt (w : Nat) (md : Rnd) (v : Val) : Int × Flags :=
  match v with
  | .nan => (0, fInvalid ||| fNan)
  | .inf neg => (if neg then intMin w else intMax w, fInvalid)
  | .fin neg m q =>
    if m = 0 then (0, 0)
    else if 64 < (Nat.log2 m : Int) + q then (if neg then intMin w else intMax w, fInvalid)
    else
      let (t, inx) := roundAt m q 0 md
      let x : Int := if neg then -(t : Int) else t
      if x < intMin w then (intMin w, fInvalid)
      else if intMax w < x then (intMax w, fInvalid)
      else (x, fIf inx fInexact)

/-- Saturation of an integer to w bits (R88). -/
def satInt (w : Nat) (x : Int) : Int × Flags :=
  if x < intMin w then (intMin w, fInvalid) else if intMax w < x then (intMax w, fInvalid) else (x, 0)

/-- An integer as a value (R88). -/
def Val.ofInt (x : Int) : Val := .fin (decide (x < 0)) x.natAbs 0

/-! ### Exact operations (R94) -/

def Val.neg : Val → Val
  | .nan => .nan
  | .inf s => .inf !s
  | .fin s m q => .fin (!s) m q

def Val.isNan : Val → Bool
  | .nan => true
  | _ => false
def Val.isInf : Val → Bool
  | .inf .. => true
  | _ => false
def Val.isFin : Val → Bool
  | .fin .. => true
  | _ => false
def Val.isZero : Val → Bool
  | .fin _ m _ => m = 0
  | _ => false
def Val.isNeg : Val → Bool
  | .nan => false
  | .inf s => s
  | .fin s _ _ => s
def Val.zero : Val := .fin false 0 0
def Val.one : Val := .fin false 1 0

/-- The signed integer of a finite value in units of 2^u, for u ≤ q. -/
def sgn (neg : Bool) (m : Nat) : Int := if neg then -(m : Int) else m

/-- v × 2^k exactly. -/
def Val.scale (k : Int) : Val → Val
  | .fin s m q => .fin s m (q + k)
  | v => v

/-- The exact sum; an exactly zero sum of opposite signs is +0 (R94). -/
def Val.add (a b : Val) : Val :=
  match a, b with
  | .nan, _ => .nan
  | _, .nan => .nan
  | .inf s, .inf t => if s = t then .inf s else .nan
  | .inf s, _ => .inf s
  | _, .inf t => .inf t
  | .fin s m q, .fin t n r =>
    if m = 0 && n = 0 then .fin (s && t) 0 0
    else if m = 0 then b
    else if n = 0 then a
    else
      let u := if q ≤ r then q else r
      let x := sgn s (m <<< (q - u).toNat) + sgn t (n <<< (r - u).toNat)
      .fin (decide (x < 0)) x.natAbs u

def Val.sub (a b : Val) : Val := a.add b.neg

/-- The exact product. -/
def Val.mul (a b : Val) : Val :=
  match a, b with
  | .nan, _ => .nan
  | _, .nan => .nan
  | .inf s, .inf t => .inf (s != t)
  | .inf s, .fin t n _ => if n = 0 then .nan else .inf (s != t)
  | .fin s m _, .inf t => if m = 0 then .nan else .inf (s != t)
  | .fin s m q, .fin t n r => .fin (s != t) (m * n) (q + r)

/-- The quotient to 64 bits and more, with a sticky last bit when it is not exact. Division of a finite nonzero
value by zero is the infinity of the exact sign (R233). -/
def Val.div (a b : Val) : Val :=
  match a, b with
  | .nan, _ => .nan
  | _, .nan => .nan
  | .inf _, .inf _ => .nan
  | .inf s, .fin t _ _ => .inf (s != t)
  | .fin s _ _, .inf t => .fin (s != t) 0 0
  | .fin s m q, .fin t n r =>
    if n = 0 then (if m = 0 then .nan else .inf (s != t))
    else if m = 0 then .fin (s != t) 0 0
    else
      let k := Nat.log2 n + 80
      let x := (m <<< k) / n
      .fin (s != t) (2 * x + (if (m <<< k) % n = 0 then 0 else 1)) (q - r - k - 1)

/-- The integer square root, from bit i − 1 down. -/
def isqrtFrom (n : Nat) : Nat → Nat → Nat
  | 0, r => r
  | i + 1, r => isqrtFrom n i (if (r + 2 ^ i) * (r + 2 ^ i) ≤ n then r + 2 ^ i else r)

def isqrt (n : Nat) : Nat := isqrtFrom n (Nat.log2 n / 2 + 1) 0

/-- The square root with a sticky last bit; √−0 = −0, and a value below 0 gives a NaN. -/
def Val.sqrt : Val → Val
  | .nan => .nan
  | .inf s => if s then .nan else .inf false
  | .fin s m q =>
    if m = 0 then .fin s 0 0
    else if s then .nan
    else
      let odd := decide (q % 2 ≠ 0)
      let m' := (if odd then 2 * m else m) <<< 160
      let q' := if odd then q - 1 else q
      let r := isqrt m'
      .fin false (2 * r + (if r * r = m' then 0 else 1)) (q' / 2 - 81)

/-- ln 2 from below in units of 2^−w; the true value is less than w + 2 units above. -/
def ln2Lo (w : Nat) : Nat := (List.range w).foldl (fun a k => a + 2 ^ w / ((k + 1) * 2 ^ (k + 1))) 0

/-- The terms of exp(y) from below: y in units of 2^−w. -/
def expSum (w y : Nat) : Nat → Nat → Nat → Nat → Nat
  | 0, _, _, s => s
  | f + 1, k, t, s =>
    let t' := t * y / (2 ^ w * k)
    if t' = 0 then s else expSum w y f (k + 1) t' (s + t')

/-- 2^(num / 2^den) for 0 < num < 2^den to 64 bits with a sticky bit, from working precision w on. -/
def exp2Frac (num den : Nat) : Nat → Nat → Nat
  | 0, w => 2 * (expSum w (num * ln2Lo w / 2 ^ den) w 1 (2 ^ w) (2 ^ w) >>> (w - 64)) + 1
  | f + 1, w =>
    let lo := expSum w (num * ln2Lo w / 2 ^ den) w 1 (2 ^ w) (2 ^ w)
    let hi := lo + 8 * w + 64
    if lo >>> (w - 64) = hi >>> (w - 64) then 2 * (lo >>> (w - 64)) + 1 else exp2Frac num den f (2 * w)

/-- 2^a (R233). Exponents beyond ±32,768 stand for every larger one: both lie outside each target's range. -/
def Val.exp2 : Val → Val
  | .nan => .nan
  | .inf s => if s then Val.zero else .inf false
  | .fin s m q =>
    if m = 0 then Val.one
    else if 15 ≤ (Nat.log2 m : Int) + q then .fin false 1 (if s then -32768 else 32768)
    else if 0 ≤ q then .fin false 1 (sgn s (m <<< q.toNat))
    else
      let d := (-q).toNat
      let x := sgn s m
      let n := x / 2 ^ d
      let r := (x % 2 ^ d).toNat
      if r = 0 then .fin false 1 n else .fin false (exp2Frac r d 3 256) (n - 65)

/-- The terms of atanh(z) from below: z and z² in units of 2^−w. -/
def atanhSum (w z2 : Nat) : Nat → Nat → Nat → Nat → Nat
  | 0, _, _, s => s
  | f + 1, k, t, s =>
    if t = 0 then s else atanhSum w z2 f (k + 2) (t * z2 / 2 ^ w) (s + t / k)

/-- log₂ of m / 2^(log₂ m) in units of 2^−w, from below and from above. -/
def log2Frac (m w : Nat) : Nat × Nat :=
  let b := 2 ^ Nat.log2 m
  let z := (m - b) * 2 ^ w / (m + b)
  let s := 2 * atanhSum w (z * z / 2 ^ w) w 1 z 0
  let l := ln2Lo w
  (s * 2 ^ w / (l + w + 2), (s + 8 * w + 64) * 2 ^ w / l + 1)

/-- |e + log₂| with 64 bits and a sticky bit from working precision w on, for m not a power of two. -/
def log2Round (m : Nat) (e : Int) : Nat → Nat → Val
  | 0, w =>
    let x : Int := e * 2 ^ w + (log2Frac m w).1
    let p := Nat.log2 x.natAbs - 63
    .fin (decide (x < 0)) (2 * (x.natAbs >>> p) + 1) ((p : Int) - w - 1)
  | f + 1, w =>
    let (lo, hi) := log2Frac m w
    let x : Int := e * 2 ^ w + lo
    let y : Int := e * 2 ^ w + hi
    let (a, b) := if x < 0 then (y.natAbs, x.natAbs) else (x.natAbs, y.natAbs)
    let p := Nat.log2 a - 63
    if decide (x < 0) = decide (y < 0) && a >>> p = b >>> p && 64 ≤ Nat.log2 a then
      .fin (decide (x < 0)) (2 * (a >>> p) + 1) ((p : Int) - w - 1)
    else log2Round m e f (2 * w)

/-- log₂ a (R233): −∞ for ±0, a NaN below 0. -/
def Val.log2 : Val → Val
  | .nan => .nan
  | .inf s => if s then .nan else .inf false
  | .fin s m q =>
    if m = 0 then .inf true
    else if s then .nan
    else
      let e : Int := (Nat.log2 m : Int) + q
      if m = 2 ^ Nat.log2 m then Val.ofInt e else log2Round m e 3 256

/-- Order of two values, neither a NaN. -/
def Val.lt (a b : Val) : Bool :=
  match a, b with
  | .nan, _ => false
  | _, .nan => false
  | .inf s, .inf t => s && !t
  | .inf s, .fin .. => s
  | .fin .., .inf t => !t
  | .fin s m q, .fin t n r =>
    let s' := s && m ≠ 0
    let t' := t && n ≠ 0
    if s' && !t' then true
    else if !s' && t' then false
    else if s' then magLt n r m q
    else magLt m q n r

/-- Equality of values, +0 and −0 equal; neither a NaN. -/
def Val.eqv (a b : Val) : Bool := !a.isNan && !b.isNan && !a.lt b && !b.lt a

/-- fmax of R92. -/
def fmax (a b : Val) : Val :=
  if a.isNan && b.isNan then .nan
  else if a.isNan then b
  else if b.isNan then a
  else if a.isZero && b.isZero then (if a.isNeg && b.isNeg then .fin true 0 0 else .fin false 0 0)
  else if b.lt a then a else b

/-- fmin of R92. -/
def fmin (a b : Val) : Val :=
  if a.isNan && b.isNan then .nan
  else if a.isNan then b
  else if b.isNan then a
  else if a.isZero && b.isZero then (if a.isNeg || b.isNeg then .fin true 0 0 else .fin false 0 0)
  else if a.lt b then a else b

/-- Flags of an operation before its rounding: NaN-seen for a NaN operand, invalid when a NaN comes of none (R90). -/
def opFlags (args : List Val) (r : Val) : Flags :=
  if args.any Val.isNan then fNan else fIf r.isNan (fInvalid ||| fNan)

/-- Rounds the exact result r of an operation on args into a format (R94). -/
def roundOp (f : FFmt) (md : Rnd) (ieee : Bool) (args : List Val) (r : Val) : Val × Flags :=
  let (v, fl) := roundFp f md ieee r
  (v, opFlags args r ||| fl)

/-- Division with the overflow that a zero divisor sets (R233). -/
def fpDiv (f : FFmt) (md : Rnd) (ieee : Bool) (a b : Val) : Val × Flags :=
  let r := a.div b
  let z := a.isFin && !a.isZero && b.isZero
  let (v, fl) := roundOp f md ieee [a, b] r
  (v, fl ||| fIf z fOverflow)

/-! FP32 operations with RNE (R212, R244), by value. -/

def add32 (ieee : Bool) (a b : Val) : Val × Flags := roundOp .fp32 .rne ieee [a, b] (a.add b)
def sub32 (ieee : Bool) (a b : Val) : Val × Flags := roundOp .fp32 .rne ieee [a, b] (a.sub b)
def mul32 (ieee : Bool) (a b : Val) : Val × Flags := roundOp .fp32 .rne ieee [a, b] (a.mul b)
def fma32 (ieee : Bool) (a b c : Val) : Val × Flags := roundOp .fp32 .rne ieee [a, b, c] ((a.mul b).add c)
def div32 (ieee : Bool) (a b : Val) : Val × Flags := fpDiv .fp32 .rne ieee a b
def sqrt32 (ieee : Bool) (a : Val) : Val × Flags := roundOp .fp32 .rne ieee [a] a.sqrt
/-- rne(v, FP32) with saturation. -/
def rne32 (v : Val) : Val := (roundFp .fp32 .rne false v).1
/-- An FP32 bit pattern as a value, and back. -/
def val32 (x : Word32) : Val := FFmt.decode .fp32 x.toNat
def bits32 (v : Val) : Word32 := BitVec.ofNat 32 (FFmt.encode .fp32 v)

/-! ### Chunks (R112, R113) -/

/-- Leading-bit exponent of a nonzero finite value. -/
def Val.exp : Val → Int
  | .fin _ m q => (Nat.log2 m : Int) + q
  | _ => 0

/-- chunk_value of R112 with R113: none when every product is zero; the flag says a window bit was lost. -/
def chunkValue (ps : List Val) : Option (Val × Bool) :=
  if ps.any fun p => !p.isFin then
    if (ps.any Val.isNan) || ((ps.any fun p => p = .inf false) && (ps.any fun p => p = .inf true)) then
      some (.nan, false)
    else some (.inf (ps.any fun p => p = .inf true), false)
  else
    match ps.filter fun p => !p.isZero with
    | [] => none
    | p :: t =>
      let e := t.foldl (fun a x => if a < x.exp then x.exp else a) p.exp
      let l := e - 57
      let r := (p :: t).foldl (fun (a : Int × Bool) x =>
        match x with
        | .fin s m q =>
          let k := shiftNat m (q - l)
          (a.1 + sgn s k, a.2 || (decide (q < l) && m % 2 ^ (l - q).toNat ≠ 0))
        | _ => a) ((0 : Int), false)
      let x : Int := 2 * r.1 + (if r.2 then 1 else 0)
      some (.fin (decide (x < 0)) x.natAbs (l - 1), r.2)

/-- acc_add of R112 on an FP32 accumulator, with the flags of its two roundings. -/
def accAdd (ieee : Bool) (acc : Val) (v : Val) : Val × Flags :=
  let (c, f1) := roundFp .fp32 .rne ieee v
  let (r, f2) := add32 ieee acc c
  (r, f1 ||| f2)

/-! ### The counter-based generator (R186) -/

def rotl32 (v : Word32) (n : Nat) : Word32 := v.rotateLeft n

structure Cg where
  x0 : Word32
  x1 : Word32
  x2 : Word32
  x3 : Word32
  deriving DecidableEq, Repr

/-- Round r of cg_word. -/
def cgRound (k0 k1 : Word32) (s : Cg) (r : Nat) : Cg :=
  let c : Word32 := 0x9E3779B9 * BitVec.ofNat 32 (r + 1)
  let ka := if r % 2 = 0 then k0 else k1
  let kb := if r % 2 = 0 then k1 else k0
  let x0 := s.x0 + ka + c
  let x3 := rotl32 (s.x3 ^^^ x0) 13
  let x2 := s.x2 + x3
  let x1 := rotl32 (s.x1 ^^^ x2) 9
  let x0 := x0 + x1
  let x3 := rotl32 (x3 ^^^ x0) 5
  let x2 := x2 + x3 + kb
  let x1 := rotl32 (x1 ^^^ x2) 11
  { x0 := x1, x1 := x2, x2 := x3, x3 := x0 }

/-- cg_word of R186. -/
def cgWord (seed : Word) (layer : BitVec 16) (step : Word) (slot : BitVec 8) (idx : Word32) : Word32 :=
  let k0 : Word32 := seed.setWidth 32
  let k1 : Word32 := (seed >>> 32).setWidth 32
  let s0 : Cg := { x0 := idx, x1 := (layer.setWidth 32 <<< 8) ||| slot.setWidth 32, x2 := step.setWidth 32,
                   x3 := (step >>> 32).setWidth 32 }
  let s := (List.range 10).foldl (cgRound k0 k1) s0
  (s.x0 + k0) ^^^ (s.x2 + k1)

/-- rng16 for element i of a conversion keyed by k (R83). -/
def SrKey.r16 (k : SrKey) (i : Nat) : Nat := (cgWord k.seed k.layer k.step k.slot (BitVec.ofNat 32 i)).toNat % 65536

/-- The rounding mode of field rm for element i (R81). -/
def rndOf (rm : Nat) (k : SrKey) (i : Nat) : Rnd :=
  if rm = 1 then .rtz else if rm = 2 then .sr (k.r16 i) else .rne

/-! ### Elements in registers and in memory (R226, R250 Table 2) -/

/-- A register element type ty (R296): 0 FP32, 1 INT32, 2 BF16, 3 FP16. -/
def tyFmt (ty : Nat) : FFmt := if ty = 2 then .bf16 else if ty = 3 then .fp16 else .fp32

/-- A source element: a floating-point value or an integer. -/
inductive Elem where
  | fp (v : Val)
  | int (x : Int)
  deriving DecidableEq, Repr

def Elem.val : Elem → Val
  | .fp v => v
  | .int x => Val.ofInt x

/-- A register element of type ty. -/
def regElem (ty : Nat) (x : Word32) : Elem :=
  if ty = 1 then .int x.toInt
  else if ty = 0 then .fp (FFmt.decode .fp32 x.toNat)
  else .fp (FFmt.decode (tyFmt ty) (x.toNat % 65536))

/-- Converts an element into register type ty (R87–R89): into INT32 with saturation, otherwise one rounding. -/
def toReg (ty : Nat) (md : Rnd) (ieee : Bool) (e : Elem) : Word32 × Flags :=
  if ty = 1 then
    match e with
    | .fp v => let (x, f) := toInt 32 md v; (BitVec.ofInt 32 x, f)
    | .int x => let (y, f) := satInt 32 x; (BitVec.ofInt 32 y, f)
  else let (n, f) := toFp (tyFmt ty) md ieee e.val; (BitVec.ofNat 32 n, f)

/-- Element bits of a memory format code (R250 Table 2); G16 counts its value plane. -/
def fmtBits (code : Nat) : Nat :=
  if code = 0 || code = 5 then 32
  else if code = 1 || code = 2 || code = 9 then 16
  else if code = 7 || code = 8 then 4
  else 8

/-- The floating-point format of a code, if it names one. -/
def fmtOf (code : Nat) : Option FFmt :=
  match code with
  | 0 => some .fp32
  | 1 => some .bf16
  | 2 => some .fp16
  | 3 => some .e5m2
  | 4 => some .e4m3
  | _ => none

/-- A memory element of a format without planes: the element of its bits. -/
def memElem (code : Nat) (x : Nat) : Elem :=
  match fmtOf code with
  | some f => .fp (f.decode x)
  | none => .int (signed (fmtBits code) x)

/-- Converts an element to the bits of memory format code, for formats without planes (R87–R89). -/
def toMem (code : Nat) (md : Rnd) (ieee : Bool) (e : Elem) : Nat × Flags :=
  match fmtOf code with
  | some f => toFp f md ieee e.val
  | none =>
    let w := fmtBits code
    match e with
    | .fp v => let (x, f) := toInt w md v; (wrap w x, f)
    | .int x => let (y, f) := satInt w x; (wrap w y, f)

/-! ### CB4 (R76, R77) -/

/-- The lowest code whose entry satisfies c. -/
def lowestCode (cb : List Val) (c : Val → Bool) : Option Nat :=
  let i := cb.findIdx c
  if i < cb.length then some i else none

/-- |a − b| of two finite values. -/
def dist (a b : Val) : Val := match a.sub b with | .fin _ m q => .fin false m q | v => v

/-- The largest entry that is not a NaN, or the smallest. -/
def extreme (cb : List Val) (big : Bool) : Val :=
  (cb.filter fun v => !v.isNan).foldl (fun a v =>
    if a.isNan then v else if big then (if a.lt v then v else a) else (if v.lt a then v else a)) .nan

/-- Conversion to CB4 (R77): the code and the flags. -/
def toCb4 (cb : List Val) (x : Val) : Nat × Flags :=
  let r : Nat × Flags :=
    if cb.all Val.isNan then (0, fInvalid)
    else match x with
    | .nan => match lowestCode cb Val.isNan with
      | some c => (c, 0)
      | none => (0, fInvalid)
    | .inf s =>
      match lowestCode cb fun v => v = .inf s with
      | some c => (c, 0)
      | none =>
        let b := extreme cb (!s)
        ((lowestCode cb fun v => v.eqv b).getD 0, fOverflow)
    | .fin s _ _ =>
      if cb.any Val.isFin then
        let best := cb.foldl (fun a v =>
          if !v.isFin then a else if a.isNan then dist x v else if (dist x v).lt a then dist x v else a) .nan
        let c := (lowestCode cb fun v => v.isFin && (dist x v).eqv best).getD 0
        (c, fIf (!best.isZero) fInexact)
      else
        match lowestCode cb fun v => v = .inf s with
        | some c => (c, fOverflow ||| fInexact)
        | none => ((lowestCode cb fun v => v = .inf !s).getD 0, fOverflow ||| fInexact)
  (r.1, r.2 ||| fIf (x.isNan || (cb.getD r.1 .nan).isNan) fNan)

/-! ### G16 (R79, R80) -/

/-- The scale of R80 for a block of FP32 values. -/
def g16Scale (xs : List Val) : Int :=
  let m := xs.foldl (fun a v => match v with
    | .fin _ n q => if a.lt (.fin false n q) then .fin false n q else a
    | _ => a) Val.zero
  if m.isZero then 0 else satI (m.exp - 14) (-128) 127

/-- Encodes a block under R80: scale, FP16 patterns and flags. -/
def g16Encode (xs : List Val) (md : Nat → Rnd) (ieee : Bool) : Int × List Nat × Flags :=
  let s := g16Scale xs
  let hs := (List.range xs.length).map fun j => toFp .fp16 (md j) ieee ((xs.getD j .nan).scale (-s))
  (s, hs.map Prod.fst, hs.foldl (fun a x => a ||| x.2) 0)

/-- The value of a G16 element (R78). -/
def g16Val (h : Nat) (s : Int) : Val := (FFmt.decode .fp16 h).scale s

/-! ### Pieces of FP32 values (R97) -/

/-- Piece 1 hi, 2 mid, 3 lo of split3, as the operand path derives it. -/
def split3 (piece : Nat) (x : Val) : Val :=
  if !x.isFin then (if piece = 1 then x else Val.zero)
  else
    let hi := (roundFp .bf16 .rtz false x).1
    let r1 := x.sub hi
    let mid := (roundFp .bf16 .rtz false r1).1
    if piece = 1 then hi else if piece = 2 then mid else (roundFp .bf16 .rtz false (r1.sub mid)).1

/-- lo of split2. -/
def split2Lo (x : Val) : Val :=
  if !x.isFin then Val.zero else (roundFp .bf16 .rne false (x.sub (roundFp .bf16 .rtz false x).1)).1

/-- A piece: 1 hi, 2 mid, 3 lo of split3, 4 lo of split2. hi is the same in both splits. -/
def operandPiece (piece : Nat) (x : Val) : Val := if piece = 4 then split2Lo x else split3 piece x

/-- The piece that the pc field of the instruction at a program counter names. Which lo a pass means is free pass by pass
(DESIGN CHOICE, log entry 21). -/
def namedPiece (field at_ : Nat) : Nat := if field = 3 && Config.loOfSplit2 at_ then 4 else field

/-- An element as the FP32 value it converts to on the way to CB4 and G16 (R89): exact but for INT32, which rounds to
nearest even whatever the instruction's rm (DESIGN CHOICE, log entry 76). -/
def via32 (e : Elem) : Val × Flags := roundFp .fp32 .rne false e.val

end Sys2Proof.Machine
end

