-- ==== Sys2Proof/Machine/Access.lean ====
section
/-! DEFINITION. Element addresses of tensor descriptors (R247–R253), the validator (R254–R256), the checks at issue
(R258), reads that may meet an error (R312, R316–R321), and element reads and writes with their conversions. -/

namespace Sys2Proof

/-- An address of a plan image on the sites now bound (R63). -/
def PAddr.addr (sites : List Nat) : PAddr → Nat
  | .abs a => a
  | .rel c off => sites.getD c 0 * 0x3000000 + off

def DescImg.ext (d : DescImg) : List Nat := [d.e0.toNat, d.e1.toNat, d.e2.toNat, d.e3.toNat]

/-- The extents that count: beyond the rank of a STRIDED descriptor they are 1 (R249). -/
def DescImg.dims (d : DescImg) : List Nat :=
  if d.kind = 0 then d.ext.take d.shape.toNat else d.ext

/-- E: the product of the extents (R249). -/
def DescImg.count (d : DescImg) : Nat := d.dims.foldl (· * ·) 1

/-- The four int32 strides of a STRIDED descriptor. -/
def DescImg.strides (d : DescImg) : List Int :=
  [(d.sLo.setWidth 32).toInt, ((d.sLo >>> 32).setWidth 32).toInt, (d.sHi.setWidth 32).toInt,
   ((d.sHi >>> 32).setWidth 32).toInt]

/-- Level N of a SPARSE descriptor, and its tile count T (R252). -/
def DescImg.level (d : DescImg) : Nat := d.shape.toNat
def DescImg.tiles (d : DescImg) : Nat := d.e1.toNat * d.level / 256 * (d.e0.toNat / 32)

end Sys2Proof

namespace Sys2Proof.Machine

/-! ### Element addresses (R247, R249, R251), in nibbles -/

/-- Nibbles of an element of format code. -/
def nibs (code : Nat) : Nat := Sys2Proof.Machine.fmtBits code / 4

/-- The multi-index of logical element e (R249). -/
def multiIndex : List Nat → Nat → List Nat
  | [], _ => []
  | n :: t, e => e % n :: multiIndex t (e / n)

/-- Nibble address of logical element e of a STRIDED or G32 descriptor. -/
def elemNib (d : DescImg) (e : Nat) : Int :=
  let u := nibs d.format.toNat
  if d.kind = 1 then
    let c := e % d.e0.toNat
    let r := e / d.e0.toNat
    let i1 := r % d.e1.toNat
    let i2 := r / d.e1.toNat % d.e2.toNat
    let i3 := r / d.e1.toNat / d.e2.toNat
    let g := ((c / 32 * d.e3.toNat + i3) * d.e2.toNat + i2) * d.e1.toNat + i1
    ((2 * d.base.toNat + u * (g * 32 + c % 32) : Nat) : Int)
  else
    let ix := multiIndex d.dims e
    (2 * d.base.toNat : Int) + u * ((ix.zip d.strides).foldl (fun a p => a + (p.1 : Int) * p.2) 0)

/-- The scale byte of the G16 element at byte address a (R253). -/
def scaleAddr (d : DescImg) (a : Nat) : Nat := d.aux.toNat + (a - d.allocBase.toNat) / 64

/-! ### The validator (R254–R256) -/

/-- The byte range of a descriptor's elements (start, length). -/
def elemRange (d : DescImg) : Nat × Nat :=
  let u := nibs d.format.toNat
  let w2 := u
  if d.kind = 0 then
    let p := d.dims.zip d.strides
    let lo := p.foldl (fun a x => let y := ((x.1 : Int) - 1) * x.2; if y < 0 then a + y else a) (0 : Int)
    let hi := p.foldl (fun a x => let y := ((x.1 : Int) - 1) * x.2; if 0 < y then a + y else a) (0 : Int)
    let a := (2 * d.base.toNat : Int) + u * lo
    let b := (2 * d.base.toNat : Int) + u * hi + w2
    (a.toNat / 2, ceilDiv b.toNat 2 - a.toNat / 2)
  else if d.kind = 1 then
    (d.base.toNat, ceilDiv d.e0.toNat 32 * d.e1.toNat * d.e2.toNat * d.e3.toNat * 32 * u / 2)
  else (d.base.toNat, d.tiles * 512 * u)

/-- Whether the lowest element address of a STRIDED descriptor is below zero. -/
def strideBelow (d : DescImg) : Bool :=
  let lo := (d.dims.zip d.strides).foldl (fun a x =>
    let y := ((x.1 : Int) - 1) * x.2
    if y < 0 then a + y else a) (0 : Int)
  d.kind = 0 && (2 * d.base.toNat : Int) + nibs d.format.toNat * lo < 0

/-- The planes: elements, the scale plane with the scale of every reachable element, mask plane and block map. -/
def planes (d : DescImg) : List (Nat × Nat) :=
  let e := elemRange d
  let blocks (a : Nat) : Nat := ceilDiv (a - d.allocBase.toNat) 64
  [e] ++
  (if d.format = 9 then [(d.aux.toNat, max (blocks d.aux.toNat) (blocks (e.1 + e.2)))] else []) ++
  (if d.kind = 2 then
    (if d.level < 8 then [(d.sLo.toNat, d.tiles * 1024 / d.level)] else []) ++
    (if d.sHi = 0 then [] else [(d.sHi.toNat, ceilDiv (d.e1.toNat / 32 * (d.e0.toNat / 32)) 8)])
  else [])

/-- The codebook of a CB4 descriptor (R76). -/
def codebook (d : DescImg) : List (Nat × Nat) := if d.format = 8 then [(d.aux.toNat, 32)] else []

def overlaps (x y : Nat × Nat) : Bool := x.1 < y.1 + y.2 && y.1 < x.1 + x.2 && 0 < x.2 && 0 < y.2

/-- The nesting test of R255: dimensions by ascending |s|, then by ascending d. -/
def insertDim (x : Nat × Nat × Nat) : List (Nat × Nat × Nat) → List (Nat × Nat × Nat)
  | [] => [x]
  | y :: t => if x.1 < y.1 then x :: y :: t else y :: insertDim x t

def nestingOk (d : DescImg) : Bool :=
  let l := ((List.range d.dims.length).filterMap fun i =>
    let n := d.dims.getD i 1
    if 1 < n then some ((d.strides.getD i 0).natAbs, i, n) else none)
  let sorted := l.foldl (fun acc x => insertDim x acc) []
  (sorted.foldl (fun (a : Option Nat) x =>
    match a with
    | none => none
    | some span => if x.1 ≤ span then none else some (span + (x.2.2 - 1) * x.1)) (some 0)).isSome

/-- Check 0x01: kinds, formats, access bits, reserved bytes and fixed fields. -/
def shapeOk (r : DescReq) : Bool :=
  let d := r.img
  d.kind.toNat ≤ 2 && d.format.toNat ≤ 9 && d.access.toNat ≤ 3 && d.access ≠ 0 && d.rsv = 0 && r.rsv = 0 &&
  r.mode.toNat ≤ 1 &&
  (d.kind ≠ 1 || (d.shape = 4 && d.sLo = 0 && d.sHi = 0)) &&
  (d.kind ≠ 2 || (d.e2 = 1 && d.e3 = 1)) &&
  (d.format = 8 || d.format = 9 || d.aux = 0)

/-- Check 0x05: alignment. -/
def alignOk (d : DescImg) : Bool :=
  let u := nibs d.format.toNat
  let w := if u = 1 then 1 else u / 2
  let fm := d.format.toNat
  d.base.toNat % w = 0 &&
  (d.kind ≠ 2 || d.sLo.toNat % 8 = 0) &&
  (u ≠ 1 || d.kind ≠ 0 ||
    ((d.dims.length = 0 || d.strides.getD 0 0 = 1) &&
     ((List.range d.dims.length).all fun i => i = 0 || d.strides.getD i 0 % 2 = 0))) &&
  (fm ≠ 8 || d.aux.toNat % 32 = 0) &&
  (fm ≠ 9 ||
    (d.allocBase.toNat % 2 = 0 && d.allocBase.toNat ≤ d.aux.toNat && (d.aux.toNat - d.allocBase.toNat) % 64 = 0 &&
     d.aux.toNat + (d.aux.toNat - d.allocBase.toNat) / 64 ≤ d.allocBase.toNat + d.allocLen.toNat &&
     (d.kind ≠ 0 || (d.strides.getD 0 0 = 1 && d.e0.toNat % 32 = 0 &&
       ((d.base.toNat : Int) - d.allocBase.toNat) % 64 = 0))))

/-- Packages that hold the physical blocks of an LPDDR5X range of allotment r (R29). -/
def packagesOf (r : AllotRec) (a n : Nat) : List Nat :=
  let p0 := (a - 0x010000000000) / 0x1200000000
  let p1 := (a + n - 1 - 0x010000000000) / 0x1200000000
  if r.interleave then
    let k := r.pkgs.length
    let b0 := a / 4096
    let nb := (a + n - 1) / 4096 - b0 + 1
    if k ≤ nb then r.pkgs
    else (List.range nb).map fun i => (r.phys ((b0 + i) * 4096) - 0x010000000000) / 0x1200000000
  else (List.range (p1 - p0 + 1)).map (p0 + ·)

/-- Check 0x07: the allocation lies in one range of the map that the allotment holds and that is in service. -/
def allocOk (s : State) (p : Nat) (a n : Nat) : Bool :=
  match s.record p with
  | none => false
  | some r =>
    if 2 ^ 52 < a + n then false
    else match region a, region (a + n - 1) with
    | .slice x, .slice y => x = y && r.hasIsland (islandOf x) && s.sliceOk x
    | .lpddr x, .lpddr y =>
      ((List.range (y - x + 1)).all fun i => r.packages.getLsbD (x + i)) && ((packagesOf r a n).all s.pkgOk)
    | .window x, .window y => x = p && y = p
    | _, _ => false

/-- The address fields of a request. -/
def addressFields (r : DescReq) : List Word :=
  let d := r.img
  [d.base, d.allocBase, d.aux] ++ (if d.kind = 2 then [d.sLo, d.sHi] else [])

/-- Translates a request of address mode 1 through the binding (R256): a code when it cannot. -/
def translateReq (sites : List Nat) (r : DescReq) : Except Nat DescImg :=
  if r.mode ≠ 1 then .ok r.img
  else if sites.length ≤ r.home.toNat then .error 0x0B
  else
    let d := r.img
    let b := sliceBase (sites.getD r.home.toNat 0)
    let tr (f : Word) : Word := if f = 0 then 0 else BitVec.ofNat 64 (b + f.toNat)
    let d1 := { d with base := tr d.base, allocBase := tr d.allocBase, aux := tr d.aux }
    .ok (if d.kind = 2 then { d1 with sLo := tr d.sLo, sHi := tr d.sHi } else d1)

/-- The validator: the translated image, or the code of the first check that fails (R254 Table 3). An offset of 0 in
address mode 1 is kept as 0, as R256 translates nonzero fields only. -/
def validate (s : State) (p : Nat) (sites : List Nat) (r : DescReq) : Except Nat DescImg :=
  match translateReq sites r with
  | .error c => .error c
  | .ok d =>
    let wr := bit d.access 1
    if !shapeOk r then .error 0x01
    else if d.kind = 2 && (d.format = 5 || d.format = 9) then .error 0x02
    else if (d.kind = 0 && (d.shape.toNat < 1 || 4 < d.shape.toNat)) || d.dims.any (· = 0) || 2 ^ 31 < d.count then
      .error 0x03
    else if d.kind = 2 && (!(d.level = 1 || d.level = 2 || d.level = 4 || d.level = 8) ||
        d.e1.toNat % (256 / d.level) ≠ 0 || d.e0.toNat % 32 ≠ 0 || (d.level = 8 && d.sLo ≠ 0)) then .error 0x04
    else if !alignOk d then .error 0x05
    else if strideBelow d || (planes d ++ codebook d).any fun x =>
        x.1 < d.allocBase.toNat || d.allocBase.toNat + d.allocLen.toNat < x.1 + x.2 then .error 0x06
    else if (r.mode = 1 && (addressFields r).any fun f => sliceSize ≤ f.toNat) ||
         !allocOk s p d.allocBase.toNat d.allocLen.toNat then
      .error 0x07
    else if wr && d.kind = 0 && ((d.dims.zip d.strides).any fun x => 1 < x.1 && x.2 = 0) then .error 0x08
    else if wr && d.kind = 0 && !nestingOk d then .error 0x09
    else if wr && ((List.range (planes d).length).any fun i => (List.range i).any fun j =>
        overlaps ((planes d).getD i (0, 0)) ((planes d).getD j (0, 0))) ||
        wr && (codebook d).any (overlaps (elemRange d)) then .error 0x0A
    else if sites.length ≤ r.core.toNat || !(s.core (sites.getD r.core.toNat 0)).hold || 63 < r.slot.toNat then
      .error 0x0B
    else .ok d

/-- Validates a request and writes the slot of its core (R257). -/
def submit (s : State) (p : Nat) (sites : List Nat) (r : DescReq) : Except Nat State :=
  match validate s p sites r with
  | .error c => .error c
  | .ok d => .ok (s.modCore (sites.getD r.core.toNat 0) fun c => { c with tds := FMap.insert r.slot.toNat d c.tds })

/-! ### Reads that may meet an error (R312, R318, R321) -/

/-- A read of resolved ranges with what its error code finds: the first unit of the range meets `check`. -/
def State.meet (s : State) (locs : List (Loc × Nat)) (check : ReadCheck) : State :=
  let s1 := locs.foldl (fun s x => match x.1 with | .dev a => s.meetInjected a x.2 | .host _ => s) s
  match locs with
  | (.dev a, _) :: _ => s1.applyCheck a check
  | _ => s1

/-- A read meets poison: reported, unless its error code has just reported the unit it poisoned. s is the state
before the read and s1 the one after its checks. -/
def State.metPoison (s s1 : State) (locs : List (Loc × Nat)) (check : ReadCheck) : State :=
  if check = .uncorrectable || !s.poisonedRange locs then s1 else s1.reportPoison locs

/-- A read by allotment p that a unit makes: address fault, poison (R312) or data, and the state with what the error
code found. -/
def State.readCk (s : State) (p a n : Nat) (check : ReadCheck) : ReadResult × State :=
  match s.resolveRange p a n false with
  | none => (.fault, s)
  | some locs =>
    if s.discards p a n then (.fault, s.aer p)
    else
    let s1 := s.meet locs check
    if s1.poisonedRange locs then (.poison, s.metPoison s1 locs check) else (.data (s1.fetch locs), s1)

/-- What the code of a unit finds when a write of n bytes at a covers its first unit in part: the unit is read, merged
and re-encoded (R316, R317). -/
def State.writeCk (s : State) (p a n : Nat) (check : ReadCheck) : State :=
  match s.resolveRange p a n true with
  | some ((.dev x, m) :: _) => if covers x m (x / unitSize x * unitSize x) then s else s.applyCheck x check
  | _ => s

/-- The stored errors that a read of ranges by allotment p meets. -/
def State.meetRanges (s : State) (p : Nat) (rs : List (Nat × Nat)) : State :=
  rs.foldl (fun s r => match s.resolveRange p r.1 r.2 false with
    | some l => s.meet l .clean
    | none => s) s

/-- A read by physical device address, as readCk. -/
def State.readDev (s : State) (a n : Nat) : ReadResult × State :=
  let locs := [(Loc.dev a, n)]
  let s1 := s.meet locs .clean
  if s1.poisonedRange locs then (.poison, s.metPoison s1 locs .clean) else (.data (s1.fetch locs), s1)

/-- Reads single bits, each by its byte address and place: all of them, or how the first read that fails ends. -/
def readBits (p : Nat) : List (Nat × Nat) → State → Except ReadResult (List Bool) × State
  | [], s => (.ok [], s)
  | (a, k) :: t, s =>
    match s.readCk p a 1 .clean with
    | (.data l, s1) => (match readBits p t s1 with
      | (.ok bs, s2) => (.ok ((ofLe l).testBit k :: bs), s2)
      | e => e)
    | (e, s1) => (.error e, s1)

/-- Reads ranges in turn: the bytes of each, or how the first read that fails ends. -/
def readEach (p : Nat) : List (Nat × Nat) → State → Except ReadResult (List (List Byte)) × State
  | [], s => (.ok [], s)
  | (a, n) :: t, s =>
    match s.readCk p a n .clean with
    | (.data l, s1) => (match readEach p t s1 with
      | (.ok ls, s2) => (.ok (l :: ls), s2)
      | e => e)
    | (e, s1) => (.error e, s1)

/-- The cause with which a failed read aborts a task (R312). -/
def ReadResult.cause : ReadResult → Nat
  | .fault => 0x01
  | _ => 0x08

/-! ### Elements in memory -/

/-- The byte ranges an element of a descriptor touches: its own bytes, and its scale byte. -/
def elemBytes (d : DescImg) (e : Nat) : List (Nat × Nat) :=
  let a := (elemNib d e).toNat
  let n := nibs d.format.toNat
  let own := (a / 2, ceilDiv n 2)
  if d.format = 9 then [own, (scaleAddr d (a / 2), 1)] else [own]

/-- Bits of the element at a nibble address, whatever the memory holds. -/
def State.peekNib (s : State) (p a n : Nat) : Nat :=
  let x := ofLe (s.peek p (a / 2) (ceilDiv n 2))
  if n = 1 then (x >>> (4 * (a % 2))) % 16 else x

/-- Writes the element at a nibble address; one nibble leaves its neighbour unchanged (R251). -/
def State.pokeNib (s : State) (p a n x : Nat) : State :=
  if n = 1 then
    let old := ofLe (s.peek p (a / 2) 1)
    let new := if a % 2 = 0 then old / 16 * 16 + x % 16 else x % 16 * 16 + old % 16
    s.poke p (a / 2) (leBytes 1 new)
  else s.poke p (a / 2) (leBytes (n / 2) x)

/-! ### A store of several elements: one write of each run of bytes that it covers (R316, R317, R319) -/

/-- The bytes that a store will write, by address. -/
abbrev Staged := FMap Byte

/-- Byte a as the store leaves it so far. -/
def State.stagedByte (s : State) (p : Nat) (m : Staged) (a : Nat) : Nat :=
  match FMap.find a m with | some b => b.toNat | none => ofLe (s.peek p a 1)

def stageBytes (m : Staged) : Nat → List Byte → Staged
  | _, [] => m
  | a, b :: t => stageBytes (FMap.insert a b m) (a + 1) t

/-- Adds the element at a nibble address; one nibble leaves its neighbour unchanged (R251). -/
def State.stageNib (s : State) (p : Nat) (m : Staged) (a n x : Nat) : Staged :=
  if n = 1 then
    let old := s.stagedByte p m (a / 2)
    FMap.insert (a / 2) (BitVec.ofNat 8 (if a % 2 = 0 then old / 16 * 16 + x % 16 else x % 16 * 16 + old % 16)) m
  else stageBytes m (a / 2) (leBytes (n / 2) x)

/-- Adds the bits of element e of a format without planes. The last element of a 4-bit tensor with an odd count also
zeroes bits 7:4 of its byte (R75). -/
def State.stageElem (s : State) (p : Nat) (m : Staged) (d : DescImg) (e x : Nat) : Staged :=
  let a := (elemNib d e).toNat
  let n := nibs d.format.toNat
  let m1 := s.stageNib p m a n x
  if n = 1 && e + 1 = d.count && d.count % 2 = 1 && a % 2 = 0 then s.stageNib p m1 (a + 1) 1 0 else m1

/-- The runs of consecutive addresses. -/
def runsOf : Staged → List (Nat × List Byte)
  | [] => []
  | (a, b) :: t => match runsOf t with
    | (a', l) :: r => if a' = a + 1 then (a, b :: l) :: r else (a, [b]) :: (a', l) :: r
    | [] => [(a, [b])]

/-- Writes each run. -/
def State.pokeStaged (s : State) (p : Nat) (m : Staged) : State := (runsOf m).foldl (fun s r => s.poke p r.1 r.2) s

/-- The 16 entries of a codebook, as BF16 patterns (R76). -/
def State.codebook (s : State) (p aux : Nat) : List Nat :=
  let b := s.peek p aux 32
  (List.range 16).map fun c => ofLe (slice b (2 * c) 2)

/-- Whether a byte range of allotment p is reachable for reading or writing. -/
def State.reach (s : State) (p : Nat) (wr : Bool) (x : Nat × Nat) : Bool := (s.resolveRange p x.1 x.2 wr).isSome

def State.poisonAt (s : State) (p : Nat) (x : Nat × Nat) : Bool :=
  match s.resolveRange p x.1 x.2 false with
  | none => false
  | some l => s.poisonedRange l

/-- The report of the first of these ranges of allotment p that is poisoned. -/
def State.reportAt (s : State) (p : Nat) (rs : List (Nat × Nat)) : State :=
  match rs.find? fun x => s.poisonAt p x with
  | none => s
  | some x => match s.resolveRange p x.1 x.2 false with
    | some l => s.reportPoison l
    | none => s

/-- The register bits of a memory element of descriptor d at register type ty, by R76, R79, R87–R89: a format that
is the register type copies its bits. cb is the codebook; its entry into a BF16 register is a copy and sets no flag, a NaN
included (DESIGN CHOICE, log entry 76). -/
def loadElem (s : State) (p : Nat) (d : DescImg) (cb : List Nat) (ty : Nat) (md : Rnd) (ieee : Bool) (e : Nat) :
    Word32 × Flags :=
  let fm := d.format.toNat
  let a := (elemNib d e).toNat
  let x := s.peekNib p a (nibs fm)
  if (fm = 0 && ty = 0) || (fm = 5 && ty = 1) || (fm = 1 && ty = 2) || (fm = 2 && ty = 3) then (BitVec.ofNat 32 x, 0)
  else if fm = 8 then
    let b := cb.getD x 0
    if ty = 2 then (BitVec.ofNat 32 b, 0) else toReg ty md ieee (.fp (FFmt.decode .bf16 b))
  else if fm = 9 then
    toReg ty md ieee (.fp (g16Val x (signed 8 (ofLe (s.peek p (scaleAddr d (a / 2)) 1)))))
  else toReg ty md ieee (memElem fm x)

/-- The bits of a format without planes that an element of register type ty is stored as (R77, R82–R89). -/
def storedBits (d : DescImg) (cb : List Nat) (ty : Nat) (md : Rnd) (ieee : Bool) (x : Word32) : Nat × Flags :=
  let fm := d.format.toNat
  if (fm = 0 && ty = 0) || (fm = 5 && ty = 1) then (x.toNat, 0)
  else if (fm = 1 && ty = 2) || (fm = 2 && ty = 3) then (x.toNat % 65536, 0)
  else if fm = 8 then
    let (v, f1) := via32 (regElem ty x)
    let (c, f2) := toCb4 (cb.map (FFmt.decode .bf16)) v
    (c, (if ty = 1 then f1 else 0) ||| f2)
  else toMem fm md ieee (regElem ty x)

/-- Encodes and writes one G16 block from its value address: the elements that fall in it, +0 elsewhere (R80, R234). -/
def storeBlock (s : State) (p : Nat) (d : DescImg) (ty : Nat) (md : Nat → Rnd) (ieee : Bool) (blk : Nat)
    (lanes : List (Nat × Nat × Word32)) : State × Flags :=
  let get (j : Nat) : Option (Nat × Word32) := (lanes.find? fun x => x.1 = j).map fun x => x.2
  let vals := (List.range 32).map fun j =>
    match get j with
    | some (_, x) => (via32 (regElem ty x)).1
    | none => Val.zero
  let f0 := (List.range 32).foldl (fun a j =>
    match get j with
    | some (_, x) => if ty = 1 then a ||| (via32 (regElem ty x)).2 else a
    | none => a) (0 : Flags)
  let (sc, hs, fl) := g16Encode vals (fun j => match get j with | some (i, _) => md i | none => .rne) ieee
  let s1 := s.poke p blk ((hs.map (leBytes 2)).foldl (· ++ ·) [])
  (s1.poke p (scaleAddr d blk) (leBytes 1 (wrap 8 sc)), f0 ||| fl)

/-- Stores register elements (i, e, bits) in ascending i: a later element at the same e prevails (R241). Together they are
one write of the bytes they cover. -/
def storeElems (s : State) (p : Nat) (d : DescImg) (ty : Nat) (md : Nat → Rnd) (ieee : Bool)
    (l : List (Nat × Nat × Word32)) : State × Flags :=
  if d.format = 9 then
    let blkOf (e : Nat) : Nat × Nat :=
      let a := (elemNib d e).toNat / 2
      let o := a - d.allocBase.toNat
      (d.allocBase.toNat + o / 64 * 64, o % 64 / 2)
    let blks := (l.map fun x => (blkOf x.2.1).1).eraseDups
    blks.foldl (fun (acc : State × Flags) b =>
      let lanes := (l.filter fun x => (blkOf x.2.1).1 = b).reverse.map fun x => ((blkOf x.2.1).2, x.1, x.2.2)
      let (s', f) := storeBlock acc.1 p d ty md ieee b lanes
      (s', acc.2 ||| f)) (s, 0)
  else
    let cb := if d.format = 8 then s.codebook p d.aux.toNat else []
    let r := l.foldl (fun (acc : Staged × Flags) x =>
      let (y, f) := storedBits d cb ty (md x.1) ieee x.2.2
      (s.stageElem p acc.1 d x.2.1 y, acc.2 ||| f)) ([], 0)
    (s.pokeStaged p r.1, r.2)

end Sys2Proof.Machine
end

