-- ==== Sys2Proof/Machine/Clock.lean ====
section
/-! DEFINITION. Clock steps, pstate and CAL_STALE of a compute island (R393, R395, R397). -/

namespace Sys2Proof.Machine

/-- Clock of a step in MHz (R395 Table 2). -/
def clockMhz : Nat → Nat
  | 0 => 1700 | 1 => 1600 | 2 => 1500 | 3 => 1400 | 4 => 1200 | 5 => 1000 | 6 => 800 | 7 => 600 | _ => 400

/-- The lowest step whose clock does not exceed mhz; step 8 where none does. -/
def stepOfMhz (mhz : Nat) : Nat := ((List.range 9).find? fun k => clockMhz k ≤ mhz).getD 8

/-- The island temperature, the higher of its two sensors, in 0.01 °C. -/
def Island.temp (x : Island) : Int := max x.temp0.toInt x.temp1.toInt

/-- |a − b| of two clocks in MHz. -/
def clkDiff (a b : Nat) : Nat := max a b - min a b

/-- A brake or leak floor is in force: from a thermal trip on, none applies (R404, R411). -/
def Hallmark.floor (h : Hallmark) : Bool := (h.brake || h.leak) && !h.trip

/-- pstate (R395): the step, 0xE while issue is gated under a floor, 0xF while the clock is stopped. -/
def State.pstate (s : State) (i : Nat) : Nat :=
  let x := s.island i
  if x.clockLost then 0xF else if s.hm.floor && x.gov.gateClosed then 0xE else x.step

/-- The core voltage of a clock step in mV (R395 Table 2): the nominal one, and what the fused calibration sets within
30 mV of it. -/
def stepMv (k : Nat) : Nat :=
  let nominal : Nat := match k with
    | 0 => 850 | 1 => 820 | 2 => 790 | 3 => 760 | 4 => 710 | 5 => 670 | 6 => 630 | 7 => 600 | _ => 580
  ((nominal : Int) + max (-30) (min 30 (Config.stepTrim k))).toNat

/-- The core rail of a compute island, and the islands that a core rail serves (Table 4 of Hallmark). -/
def railOf (i : Nat) : Nat := 2 + rowOf i / 2 * 3 + colOf i / 2
def railIslands (r : Nat) : List Nat := (List.range 36).filter fun i => railOf i = r

/-- Sets the core rail of island i to the voltage that the highest step requires among the islands it serves (R390): an
island whose step rises counts with its new step from before the switch, one whose step falls with its old one until the
switch. -/
def State.setRail (s : State) (i : Nat) : State :=
  let k := (railIslands (railOf i)).foldl (fun k j => min k (min (s.island j).step ((s.island j).relock.getD 8))) 8
  { s with hm := { s.hm with railMv := FMap.insert (railOf i) (stepMv k) s.hm.railMv } }

/-- CAL_STALE of R397 apart from its pstate condition, which `gated` gives. -/
def Island.staleNow (x : Island) (gated : Bool) : Bool :=
  let clk := clockMhz x.step
  decide (x.oppClkTol.toNat < clkDiff clk (clockMhz x.planStep)) ||
  decide (100 * x.oppTol.toNat < (x.temp - 100 * x.oppTemp.toInt).natAbs) ||
  decide (x.oppClkTol.toNat < clkDiff clk (clockMhz x.calStep.toNat)) ||
  decide (100 * x.oppTol.toNat < (x.temp - 100 * x.calTemp.toInt).natAbs) || gated

/-- Records an evaluation of CAL_STALE; each rise adds 1 to stale_cnt. -/
def Island.setStale (x : Island) (v : Bool) : Island :=
  { x with calStale := v, staleCnt := if v && !x.calStale then satAdd x.staleCnt 1 else x.staleCnt }

/-- CAL_STALE at a sensor sample, a step change, and where a plan load or a replay sets the stated point. -/
def State.evalStale (s : State) (i : Nat) : State :=
  s.modIsland i fun x => x.setStale (x.staleNow (decide (14 ≤ s.pstate i)))

end Sys2Proof.Machine
end

