-- ==== Sys2Proof/Machine/Crypto.lean ====
section
/-! DEFINITION. The crypto engine of Hallmark (R364 Table 1) over byte strings: SHA-512, HMAC-SHA-512 and its key
derivation in counter mode (SP 800-108), and ECDSA over P-521. The manual names these algorithms and no more; their
definitions are those of FIPS 180-4, FIPS 198-1, SP 800-108 and FIPS 186-5 (PRESUMED, log entry 77). -/

namespace Sys2Proof.Machine

/-- n as w big-endian bytes, and the number that big-endian bytes hold. -/
def beBytes (w n : Nat) : List Byte := (leBytes w n).reverse
def ofBe (l : List Byte) : Nat := ofLe l.reverse

/-! ### SHA-512 -/

def shaK : List Nat :=
  [0x428A2F98D728AE22, 0x7137449123EF65CD, 0xB5C0FBCFEC4D3B2F, 0xE9B5DBA58189DBBC] ++
  [0x3956C25BF348B538, 0x59F111F1B605D019, 0x923F82A4AF194F9B, 0xAB1C5ED5DA6D8118] ++
  [0xD807AA98A3030242, 0x12835B0145706FBE, 0x243185BE4EE4B28C, 0x550C7DC3D5FFB4E2] ++
  [0x72BE5D74F27B896F, 0x80DEB1FE3B1696B1, 0x9BDC06A725C71235, 0xC19BF174CF692694] ++
  [0xE49B69C19EF14AD2, 0xEFBE4786384F25E3, 0x0FC19DC68B8CD5B5, 0x240CA1CC77AC9C65] ++
  [0x2DE92C6F592B0275, 0x4A7484AA6EA6E483, 0x5CB0A9DCBD41FBD4, 0x76F988DA831153B5] ++
  [0x983E5152EE66DFAB, 0xA831C66D2DB43210, 0xB00327C898FB213F, 0xBF597FC7BEEF0EE4] ++
  [0xC6E00BF33DA88FC2, 0xD5A79147930AA725, 0x06CA6351E003826F, 0x142929670A0E6E70] ++
  [0x27B70A8546D22FFC, 0x2E1B21385C26C926, 0x4D2C6DFC5AC42AED, 0x53380D139D95B3DF] ++
  [0x650A73548BAF63DE, 0x766A0ABB3C77B2A8, 0x81C2C92E47EDAEE6, 0x92722C851482353B] ++
  [0xA2BFE8A14CF10364, 0xA81A664BBC423001, 0xC24B8B70D0F89791, 0xC76C51A30654BE30] ++
  [0xD192E819D6EF5218, 0xD69906245565A910, 0xF40E35855771202A, 0x106AA07032BBD1B8] ++
  [0x19A4C116B8D2D0C8, 0x1E376C085141AB53, 0x2748774CDF8EEB99, 0x34B0BCB5E19B48A8] ++
  [0x391C0CB3C5C95A63, 0x4ED8AA4AE3418ACB, 0x5B9CCA4F7763E373, 0x682E6FF3D6B2B8A3] ++
  [0x748F82EE5DEFB2FC, 0x78A5636F43172F60, 0x84C87814A1F0AB72, 0x8CC702081A6439EC] ++
  [0x90BEFFFA23631E28, 0xA4506CEBDE82BDE9, 0xBEF9A3F7B2C67915, 0xC67178F2E372532B] ++
  [0xCA273ECEEA26619C, 0xD186B8C721C0C207, 0xEADA7DD6CDE0EB1E, 0xF57D4F7FEE6ED178] ++
  [0x06F067AA72176FBA, 0x0A637DC5A2C898A6, 0x113F9804BEF90DAE, 0x1B710B35131C471B] ++
  [0x28DB77F523047D84, 0x32CAAB7B40C72493, 0x3C9EBE0A15C9BEBC, 0x431D67C49C100D4C] ++
  [0x4CC5D4BECB3E42B6, 0x597F299CFC657E2A, 0x5FCB6FAB3AD6FAEC, 0x6C44198C4A475817]

def shaInit : List Nat :=
  [0x6A09E667F3BCC908, 0xBB67AE8584CAA73B, 0x3C6EF372FE94F82B, 0xA54FF53A5F1D36F1] ++
  [0x510E527FADE682D1, 0x9B05688C2B3E6C1F, 0x1F83D9ABFB41BD6B, 0x5BE0CD19137E2179]

/-- A word rotated right by n bits; words are numbers below 2 ^ 64. -/
def rotr (x n : Nat) : Nat := x / 2 ^ n + x % 2 ^ n * 2 ^ (64 - n)

def shaSmall (x a b c : Nat) : Nat := rotr x a ^^^ rotr x b ^^^ (x / 2 ^ c)
def shaBig (x a b c : Nat) : Nat := rotr x a ^^^ rotr x b ^^^ rotr x c

/-- The schedule is built latest first: n more words before those of w. -/
def shaExtend : Nat → List Nat → List Nat
  | 0, w => w
  | n + 1, w => shaExtend n
    ((w.getD 15 0 + shaSmall (w.getD 14 0) 1 8 7 + w.getD 6 0 + shaSmall (w.getD 1 0) 19 61 6) % 2 ^ 64 :: w)

/-- The 80 words of a block's schedule. -/
def shaSchedule (block : List Byte) : List Nat :=
  (shaExtend 64 ((List.range 16).map fun i => ofBe (slice block (8 * i) 8)).reverse).reverse

/-- One round on the eight working words, with a constant and a word of the schedule. -/
def shaRound (v : List Nat) (x : Nat × Nat) : List Nat :=
  match v with
  | [a, b, c, d, e, f, g, h] =>
    let t1 := h + shaBig e 14 18 41 + ((e &&& f) ^^^ ((2 ^ 64 - 1 - e) &&& g)) + x.1 + x.2
    let t2 := shaBig a 28 34 39 + ((a &&& b) ^^^ (a &&& c) ^^^ (b &&& c))
    [(t1 + t2) % 2 ^ 64, a, b, c, (d + t1) % 2 ^ 64, e, f, g]
  | _ => v

def shaBlock (h : List Nat) (block : List Byte) : List Nat :=
  List.zipWith (fun a b => (a + b) % 2 ^ 64) h ((shaK.zip (shaSchedule block)).foldl shaRound h)

/-- The message with its padding: 0x80, zeros, and the length in bits. -/
def shaPad (l : List Byte) : List Byte :=
  l ++ [0x80] ++ List.replicate ((239 - l.length % 128) % 128) 0 ++ beBytes 16 (8 * l.length)

def shaBlocks : Nat → List Nat → List Byte → List Nat
  | 0, h, _ => h
  | n + 1, h, l => shaBlocks n (shaBlock h (l.take 128)) (l.drop 128)

/-- SHA-512 of a byte string: 64 bytes. -/
def sha512 (l : List Byte) : List Byte :=
  let m := shaPad l
  (shaBlocks (m.length / 128) shaInit m).flatMap (beBytes 8)

/-! ### HMAC and key derivation -/

def hmac (key msg : List Byte) : List Byte :=
  let k := slice (if 128 < key.length then sha512 key else key) 0 128
  sha512 (k.map (· ^^^ 0x5C) ++ sha512 (k.map (· ^^^ 0x36) ++ msg))

/-- n bytes derived from a key in counter mode with a 32-bit counter: label, a zero byte, context and the length in bits. -/
def kdf (key label context : List Byte) (n : Nat) : List Byte :=
  (((List.range (ceilDiv n 64)).flatMap fun i =>
    hmac key (beBytes 4 (i + 1) ++ label ++ [0] ++ context ++ beBytes 4 (8 * n)))).take n

/-! ### P-521 -/

def ecP : Nat := 2 ^ 521 - 1
def ecB : Nat := 0x51953EB9618E1C9A1F929A21A0B68540EEA2DA725B99B315F3B8B489918EF109E156193951EC7E937B1652C0BD3BB1BF073573DF883D2C34F1EF451FD46B503F00
def ecN : Nat := 0x1FFFFFFFFFFFFFFFFFFFFFFFFFFFFFFFFFFFFFFFFFFFFFFFFFFFFFFFFFFFFFFFFFA51868783BF2F966B7FCC0148F709A5D03BB5C9B8899C47AEBB6FB71E91386409
/-- A point in Jacobian coordinates: (X / Z², Y / Z³), and the point at infinity where Z is 0. -/
structure EcPt where
  x : Nat
  y : Nat
  z : Nat

def ecG : EcPt :=
  ⟨0xC6858E06B70404E9CD9E3ECB662395B4429C648139053FB521F828AF606B4D3DBAA14B5E77EFE75928FE1DC127A2FFA8DE3348B3C1856A429BF97E7E31C2E5BD66,
   0x11839296A789A3BC0045C8A5FB42C7D1BD998F54449579B446817AFBD17273E662C97EE72995EF42640C550B9013FAD0761353C7086A272C24088BE94769FD16650, 1⟩

/-- b ^ e mod m, by the bits of e from the most significant of k down. -/
def powMod (b m : Nat) : Nat → Nat → Nat
  | 0, _ => 1
  | k + 1, e =>
    let r := powMod b m k (e / 2)
    if e % 2 = 1 then r * r % m * b % m else r * r % m

/-- The inverse modulo a prime of at most 521 bits. -/
def invMod (x m : Nat) : Nat := powMod (x % m) m 521 (m - 2)

/-- a - b and a * b modulo the prime of the curve, of numbers below it. -/
def ecSub (a b : Nat) : Nat := (a + (ecP - b)) % ecP
def ecTimes (a b : Nat) : Nat := a * b % ecP

def ecDouble (q : EcPt) : EcPt :=
  if q.z = 0 then q
  else
    let d := ecTimes q.z q.z
    let g := ecTimes q.y q.y
    let b := ecTimes q.x g
    let a := ecTimes 3 (ecTimes (ecSub q.x d) ((q.x + d) % ecP))
    let x := ecSub (ecTimes a a) (8 * b % ecP)
    ⟨x, ecSub (ecTimes a (ecSub (4 * b % ecP) x)) (8 * g * g % ecP), 2 * q.y * q.z % ecP⟩

def ecAdd (p q : EcPt) : EcPt :=
  if p.z = 0 then q
  else if q.z = 0 then p
  else
    let pz := ecTimes p.z p.z
    let qz := ecTimes q.z q.z
    let u := ecTimes p.x qz
    let s := ecTimes p.y (ecTimes q.z qz)
    let h := ecSub (ecTimes q.x pz) u
    let r := ecSub (ecTimes q.y (ecTimes p.z pz)) s
    if h = 0 then (if r = 0 then ecDouble p else ⟨1, 1, 0⟩)
    else
      let hh := ecTimes h h
      let hhh := ecTimes h hh
      let v := ecTimes u hh
      let x := ecSub (ecSub (ecTimes r r) hhh) (2 * v % ecP)
      ⟨x, ecSub (ecTimes r (ecSub v x)) (ecTimes s hhh), ecTimes h (ecTimes p.z q.z)⟩

/-- k times a point, by the low n bits of k. -/
def ecMulBits (q : EcPt) : Nat → Nat → EcPt
  | 0, _ => ⟨1, 1, 0⟩
  | n + 1, k =>
    let d := ecDouble (ecMulBits q n (k / 2))
    if k % 2 = 1 then ecAdd d q else d

/-- k times a point. -/
def ecMul (q : EcPt) (k : Nat) : EcPt := ecMulBits q (k.log2 + 1) k

/-- The affine coordinates of a point other than that at infinity. -/
def EcPt.affine (q : EcPt) : Nat × Nat :=
  let i := invMod q.z ecP
  let ii := ecTimes i i
  (ecTimes q.x ii, ecTimes q.y (ecTimes i ii))

/-- An uncompressed public key (133 bytes): its point, where it is one of the curve. -/
def ecPoint (key : List Byte) : Option EcPt :=
  let x := ofBe (slice key 1 66)
  let y := ofBe (slice key 67 66)
  if key.length = 133 && key.headD 0 = 4 && x < ecP && y < ecP && (y * y + 3 * x) % ecP = (x * x * x + ecB) % ecP then
    some ⟨x, y, 1⟩
  else none

/-- The uncompressed public key of a secret key. -/
def ecPublic (d : Nat) : List Byte :=
  let (x, y) := (ecMul ecG d).affine
  [4] ++ beBytes 66 x ++ beBytes 66 y

/-- Whether a signature of 132 bytes, r then s, is one of the message under a public key. -/
def ecVerify (key msg sig : List Byte) : Bool :=
  let r := ofBe (slice sig 0 66)
  let t := ofBe (slice sig 66 66)
  match ecPoint key with
  | none => false
  | some q =>
    if r = 0 || ecN ≤ r || t = 0 || ecN ≤ t then false
    else
      let w := invMod t ecN
      let p := ecAdd (ecMul ecG (ofBe (sha512 msg) * w % ecN)) (ecMul q (r * w % ecN))
      p.z ≠ 0 && p.affine.1 % ecN = r

/-- The signature of a message by secret key d with per-message secret k. -/
def ecSign (d k : Nat) (msg : List Byte) : List Byte :=
  let r := (ecMul ecG k).affine.1 % ecN
  beBytes 66 r ++ beBytes 66 (invMod k ecN * (ofBe (sha512 msg) + r * d) % ecN)

end Sys2Proof.Machine
end

