-- ==== Sys2Proof/Machine/Image.lean ====
section
/-! DEFINITION. The bytes of a plan image (R67, R68) and of the records of its sections: work and layer records (R151,
R152), curve blocks (R154, R155), probe buffers (R467), update records, group table entries and sweep sets (R207, R209, R219), descriptor
requests (R250, R256), the STREAM header and class records (R270), the stated point (R396) and the CKPT section (R328). -/

namespace Sys2Proof.Machine

/-- The little-endian field of n bytes at offset a. -/
def leAt (l : List Byte) (a n : Nat) : Nat := ofLe (slice l a n)
def wordAt (l : List Byte) (a : Nat) : Word := BitVec.ofNat 64 (leAt l a 8)
def word32At (l : List Byte) (a : Nat) : Word32 := BitVec.ofNat 32 (leAt l a 4)
def byteAt (l : List Byte) (a : Nat) : Byte := BitVec.ofNat 8 (leAt l a 1)

/-- n records of k bytes from offset a on. -/
def recordsAt {α : Type} (l : List Byte) (a k n : Nat) (f : List Byte → α) : List α :=
  (List.range n).map fun i => f (slice l (a + k * i) k)

/-! ### Curve blocks (R154, R155) -/

/-- n tables that follow one another from the start of l; none when the block leaves its section. -/
def curveTables : Nat → List Byte → Option (List Curve)
  | 0, _ => some []
  | n + 1, l =>
    let c := leAt l 0 1
    if l.length < 16 * (c + 1) then none
    else (curveTables n (l.drop (16 * (c + 1)))).map
      ({ count := c, points := recordsAt l 16 16 c fun r => (leAt r 0 8, leAt r 8 4) } :: ·)

/-- The curve block at offset a of a section: its tables, and whether it lies in the section. -/
def curveBlock (l : List Byte) (a n : Nat) : List Curve × Bool :=
  if l.length < a then ([], false)
  else match curveTables n (l.drop a) with
  | some cs => (cs, true)
  | none => ([], false)

/-- The curve block that the curve header of a MASK or GROUP section names. -/
def curveHeader (l : List Byte) : List Curve × Bool := curveBlock l (leAt l 0 8) (leAt l 8 2)

/-! ### Records -/

/-- R151 Table 1. -/
def workRecord (l : List Byte) : WorkRec :=
  { valueAddr := .abs (leAt l 0 8), maskAddr := .abs (leAt l 8 8), listAddr := leAt l 16 8, tile := leAt l 0x18 4
    layer := leAt l 0x1C 2 }

/-- R152 Table 2. -/
def layerRecord (l : List Byte) : LayerRec :=
  { firstStep := leAt l 0 8, lastStep := leAt l 8 8, period := leAt l 0x10 4, level := leAt l 0x14 1
    dropCurve := leAt l 0x15 1, densCurve := leAt l 0x16 1, init := byteAt l 0x17, alpha := word32At l 0x18
    listLen := leAt l 0x1C 2, group := leAt l 0x1E 2, blockBase := .abs (leAt l 0x20 8), bcols := leAt l 0x28 4 }

/-- R467. -/
def probeRecord (l : List Byte) : ProbeBuf :=
  { valueAddr := .abs (leAt l 0 8), scaleAddr := .abs (leAt l 8 8), blocks := leAt l 0x10 4 }

/-- R207 Table 3. A group number above 4,095 counts modulo 4,096 (DESIGN CHOICE, log entry 79). -/
def updateRecord (l : List Byte) : UpdateRec :=
  { valueAddr := .abs (leAt l 0 8), bufAddr := .abs (leAt l 8 8), stateAddr := leAt l 0x10 8, parkAddr := leAt l 0x18 8
    group := leAt l 0x20 2 % 4096, fmt := leAt l 0x22 1, tier3 := (byteAt l 0x23).getLsbD 0, planisher := leAt l 0x24 1
    tile := leAt l 0x28 4 }

/-- R209 Table 4. -/
def groupEntry (l : List Byte) : GroupEnt :=
  { rule := leAt l 0 1, lrCurve := leAt l 1 1, biasCorr := (byteAt l 2).getLsbD 0, lrBase := word32At l 4
    beta1 := word32At l 8, beta2 := word32At l 0x0C, eps := word32At l 0x10, lambda := word32At l 0x14
    trMax := word32At l 0x18, assayPeriod := leAt l 0x1C 2 }

/-- R219. -/
def sweepSet (l : List Byte) : SweepSet :=
  { firstStep := leAt l 0 8, period := leAt l 8 4, firstRec := leAt l 12 4, count := leAt l 16 4, readyAddr := leAt l 24 8 }

/-- R250 Table 1. -/
def descImage (l : List Byte) : DescImg :=
  { base := wordAt l 0, allocBase := wordAt l 8, allocLen := wordAt l 0x10, aux := wordAt l 0x18
    e0 := word32At l 0x20, e1 := word32At l 0x24, e2 := word32At l 0x28, e3 := word32At l 0x2C
    sLo := wordAt l 0x30, sHi := wordAt l 0x38, kind := byteAt l 0x40, format := byteAt l 0x41
    access := byteAt l 0x42, shape := byteAt l 0x43, rsv := BitVec.ofNat 96 (leAt l 0x44 12) }

/-- R256. -/
def descRequest (l : List Byte) : DescReq :=
  { core := BitVec.ofNat 16 (leAt l 0 2), slot := byteAt l 2, mode := byteAt l 3, home := BitVec.ofNat 16 (leAt l 4 2)
    rsv := BitVec.ofNat 80 (leAt l 6 10), img := descImage (l.drop 16) }

/-- R270 Table 4; fields whose range the table bounds are held to it. -/
def streamHeader (l : List Byte) : StreamHdr :=
  { window := decide (leAt l 0 1 = 1), realTime := (byteAt l 1).getLsbD 0, batch := leAt l 2 2, manSlot := leAt l 5 1
    manCore := leAt l 6 2, t0 := (wordAt l 8).toInt, width := (wordAt l 16).toNat, lag := (wordAt l 0x18).toNat
    manOff := leAt l 0x20 4, rejK := max 4 (min 20 (leAt l 0x24 1)), phK := max 4 (min 20 (leAt l 0x25 1))
    rejBase := leAt l 0x28 8, phBase := leAt l 0x30 8 }

/-- R270 Table 5. -/
def classRecord (l : List Byte) : ClassRec :=
  { maxLen := leAt l 0 4, home := leAt l 4 2, sigSlot := leAt l 6 1, en := (byteAt l 7).getLsbD 0, bufOff := leAt l 8 4
    slotStride := leAt l 12 4, bankStride := leAt l 16 4 }

/-- R396 Table 3. -/
def statedPoint (l : List Byte) : StatedPoint :=
  { step := leAt l 0 1, temp := (byteAt l 1).toInt, tempTol := leAt l 2 1, clkTol := leAt l 3 1, hostMax := leAt l 4 4
    ballast := leAt l 10 1 }

/-- R328 Table 2 with the exclusion and frozen records. -/
def ckptSection (l : List Byte) : CkptSec :=
  let n := leAt l 0x0E 2
  { firstCut := leAt l 0 8, period := leAt l 8 4, replayMax := leAt l 12 1, hw := leAt l 13 1, ringBase := leAt l 0x10 8
    ringLen := leAt l 0x18 8, undoLen := leAt l 0x20 8, ingotOff := leAt l 0x28 8, ingotLen := leAt l 0x30 8
    exclusions := recordsAt l 64 16 n fun r => (leAt r 0 8, leAt r 8 8)
    frozen := recordsAt l (64 + 16 * n) 32 (leAt l 0x38 4) fun r => (.abs (leAt r 0 8), leAt r 8 8, leAt r 16 1) }

/-! ### Sections (R68) -/

/-- The body of a section of a type from its bytes, and what `place` says of it; a place of another type says nothing. -/
def sectionBody (typ : Nat) (l : List Byte) (place : SecPlace) : SecBody :=
  match typ with
  | 1 => .layout (match place with
    | .layout b => b
    | _ => { cores := 0, packages := [], privileged := [], digest := 0, stash := [] })
  | 2 => .code (recordsAt l 0 8 (l.length / 8) fun r => wordAt r 0)
  | 3 => .wheel (match place with | .wheel b => b | _ => { entries := [], segments := [], wdogLog2 := 30 })
  | 4 => .task (match place with | .task b => b | _ => [])
  | 5 => .tdesc (recordsAt l 0 96 (l.length / 96) descRequest)
  | 6 =>
    let b := match place with
      | .bound b => b
      | _ => { ringBase := .rel 0 0, ringK := 4, bounds := [], plnBounds := [], ingestBound := 0 }
    let cs := curveBlock l 32 (leAt l 8 2)
    .bound { ringBase := b.ringBase, ringK := b.ringK, bounds := b.bounds, plnBounds := b.plnBounds
             ingestBound := b.ingestBound, point := statedPoint l, curves := cs.1, curveBlockOk := cs.2 }
  | 7 =>
    let cs := curveHeader l
    match place with
    | .group b => .group {
        updates := recordsAt l b.updOff 48 b.updCount updateRecord
        groups := b.entryOffs.map fun x => (x.1, groupEntry (slice l x.2 64))
        sweeps := recordsAt l b.sweepOff 32 b.sweepCount sweepSet
        curves := cs.1, curveBlockOk := cs.2, vcfg := b.vcfg, skipThr := b.skipThr, clipThr := b.clipThr
        lstbl := b.lstbl, ls := b.ls, vringBase := b.vringBase, vringK := b.vringK, grpOff := b.grpOff
        ringOff := b.ringOff, ringK := b.ringK }
    | _ => .group {
        updates := [], groups := [], sweeps := [], curves := cs.1, curveBlockOk := cs.2, vcfg := 1
        skipThr := 0x7F800000, clipThr := 0x7F800000, lstbl := 0x180003E84F4F0000, ls := 16, vringBase := 0, vringK := 4
        grpOff := 0, ringOff := 0, ringK := 4 }
  | 8 =>
    let cs := curveHeader l
    match place with
    | .mask b => .mask {
        works := recordsAt l b.workOff 32 b.workCount workRecord
        layers := b.layerOffs.map fun x => (x.1, layerRecord (slice l x.2 48))
        curves := cs.1, curveBlockOk := cs.2, probes := recordsAt l b.probeOff 24 b.probeCount probeRecord }
    | _ => .mask { works := [], layers := [], curves := cs.1, curveBlockOk := cs.2, probes := [] }
  | 9 =>
    let (qs, os) := match place with
      | .stream q o => (q, o)
      | _ => ([], [])
    .stream { hdr := streamHeader l, classes := recordsAt l 64 32 (leAt l 4 1) classRecord, queues := qs, owners := os }
  | 10 => .data (match place with | .data ws => ws | _ => [])
  | 11 => .ckpt (ckptSection l)
  | t => .unknown t

/-- Directory entry k of an image whose directory begins at offset d, with its section. -/
def sectionAt (l : List Byte) (d k : Nat) (place : SecPlace) : Section :=
  let e := slice l (d + 32 * k) 32
  let off := leAt e 8 8
  let len := leAt e 16 8
  let inside := decide (off + len ≤ l.length)
  let bytes := if inside then slice l off len else []
  { layout := leAt e 2 1, core := leAt e 4 2, crcOk := inside && crc32c bytes = word32At e 24
    body := sectionBody (leAt e 0 2) bytes place }

/-- The image that bytes of host memory hold. The image ends at image_length; a checksum over bytes that are not there
does not hold. -/
def parseImage (bytes : List Byte) (places : ImagePlace) : PlanImage :=
  let n := leAt bytes 8 8
  let l := bytes.take n
  { magic := word32At l 0, formatMajor := byteAt l 4, formatMinor := byteAt l 5, revision := byteAt l 6
    imageLength := wordAt l 8, layoutCount := byteAt l 0x14, planId := wordAt l 0x18, jobSeed := wordAt l 0x20
    headerOk := decide (64 ≤ l.length) && crc32c (l.take 0x30) = word32At l 0x30
    imageOk := decide (n ≤ bytes.length) && crc32c (l.drop 0x40) = word32At l 0x34
    imageDigest := BitVec.ofNat 512 (ofBe (sha512 l))
    sections := (List.range (min (leAt l 0x10 4) (l.length / 32 + 1))).map fun k =>
      sectionAt l (leAt l 0x28 8) k (places.getD k .none) }

end Sys2Proof.Machine
end

