-- ==== Sys2Proof/Machine/Loader.lean ====
section
/-! DEFINITION. The plan loader (R67–R71): the section in effect, the checks in the order of R69, the layout choice
(R39, R40), the binding (R63) and the state it leaves in cores, spine, Planishers, Vetch units and ingest. -/

namespace Sys2Proof

/-- Section type codes (R68 Table 11). -/
def SecBody.typ : SecBody → Nat
  | .layout _ => 1 | .code _ => 2 | .wheel _ => 3 | .task _ => 4 | .tdesc _ => 5 | .bound _ => 6 | .group _ => 7
  | .mask _ => 8 | .stream _ => 9 | .data _ => 10 | .ckpt _ => 11 | .unknown t => t

/-- The section of a type in effect for a core of a layout, in the order of R68. -/
def PlanImage.inEffect (im : PlanImage) (typ layout core : Nat) : Option SecBody :=
  let pick (l c : Nat) : Option SecBody :=
    (im.sections.find? fun x => x.body.typ = typ && x.layout = l && x.core = c).map fun x => x.body
  (pick layout core).or ((pick layout 0xFFFF).or ((pick 0xFF core).or (pick 0xFF 0xFFFF)))

/-- Sections of a type that may repeat, for a core of a layout, in directory order (R68). -/
def PlanImage.allOf (im : PlanImage) (typ layout : Nat) : List SecBody :=
  (im.sections.filter fun x => x.body.typ = typ && (x.layout = layout || x.layout = 0xFF)).map fun x => x.body

/-- The lowest-numbered core that a section of a type names for a layout. -/
def PlanImage.namedCore (im : PlanImage) (typ layout : Nat) : Option Nat :=
  ((im.sections.filter fun x => x.body.typ = typ && (x.layout = layout || x.layout = 0xFF) && x.core ≠ 0xFFFF).map
    fun x => x.core).min?

/-- The section of a type that speaks of a layout as a whole: the one in effect for core 0, or else for the first core
that has one. -/
def PlanImage.ofLayout (im : PlanImage) (typ layout : Nat) : Option SecBody :=
  (im.inEffect typ layout 0).or ((im.namedCore typ layout).bind (im.inEffect typ layout))

def PlanImage.layoutSec (im : PlanImage) (l : Nat) : Option LayoutSec :=
  match im.ofLayout 1 l with | some (.layout b) => some b | _ => none
def PlanImage.codeSec (im : PlanImage) (l c : Nat) : List Word :=
  match im.inEffect 2 l c with | some (.code w) => w | _ => []
def PlanImage.wheelSec (im : PlanImage) (l c : Nat) : WheelSec :=
  match im.inEffect 3 l c with | some (.wheel b) => b | _ => { entries := [], segments := [], wdogLog2 := 30 }
def PlanImage.taskSec (im : PlanImage) (l c : Nat) : List TaskDef :=
  match im.inEffect 4 l c with | some (.task b) => b | _ => []
def PlanImage.boundSec (im : PlanImage) (l c : Nat) : Option BoundSec :=
  match im.inEffect 6 l c with | some (.bound b) => some b | _ => none
def PlanImage.groupSec (im : PlanImage) (l : Nat) : Option GroupSec :=
  match im.ofLayout 7 l with | some (.group b) => some b | _ => none
def PlanImage.maskSec (im : PlanImage) (l : Nat) : Option MaskSec :=
  match im.ofLayout 8 l with | some (.mask b) => some b | _ => none
def PlanImage.streamSec (im : PlanImage) (l : Nat) : Option StreamSec :=
  match im.ofLayout 9 l with | some (.stream b) => some b | _ => none
def PlanImage.ckptSec (im : PlanImage) (l : Nat) : Option CkptSec :=
  match im.ofLayout 11 l with | some (.ckpt b) => some b | _ => none

/-- Queue definitions of core c of a layout, from the STREAM section in effect for it (R260). -/
def PlanImage.queueDefs (im : PlanImage) (l c : Nat) : List QueueDef :=
  match im.inEffect 9 l c with | some (.stream b) => b.queues.filter fun q => q.core = c | _ => []

/-- An address whose tier-1 slice belonged to a rebound core keeps its offset and takes the new slice (R326). -/
def PAddr.rebase (old new : List Nat) : PAddr → PAddr
  | .abs a =>
    let i := old.findIdx (· = a / 0x3000000)
    if a < 0x6C0000000 && i < old.length then .abs (new.getD i 0 * 0x3000000 + a % 0x3000000) else .abs a
  | .rel c o => .rel c o

/-- A section that the loader ignores (R67). -/
def Section.ignored (x : Section) : Bool := decide (0x8000 ≤ x.body.typ)

/-- The contents of the DATA sections of a layout, in directory order (R68). -/
def PlanImage.data (im : PlanImage) (l : Nat) : List (PAddr × List Byte) :=
  (im.allOf 10 l).flatMap fun b => match b with | .data ws => ws | _ => []

end Sys2Proof

namespace Sys2Proof.Machine

/-- A rejection (R70): reason, layout index, plan-relative core, site and detail. -/
structure Reject where
  reason : Nat
  layout : Nat := 0
  core : Nat := 0xFFFF
  site : Nat := 0xFFFF
  detail : Nat
  deriving DecidableEq, Repr

/-- Payload of event kind 2 and body of log kind 4 (R355 Table 8). -/
def Reject.payload (r : Reject) (planId : Word) : List Byte :=
  leBytes 2 r.reason ++ leBytes 1 r.layout ++ [0] ++ leBytes 2 r.core ++ leBytes 2 r.site ++
  leBytes 8 planId.toNat ++ leBytes 4 r.detail

/-! ### Curves (R154) -/

def curvePts : List (Nat × Nat) → Nat × Nat → Nat → Nat
  | [], p, _ => min p.2 (2 ^ 24)
  | (x, v) :: t, p, s =>
    if x ≤ p.1 then min p.2 (2 ^ 24)
    else if s < x then
      let d : Int := (min v (2 ^ 24) : Nat) - (min p.2 (2 ^ 24) : Nat)
      ((min p.2 (2 ^ 24) : Nat) + (d * ((s - p.1 : Nat) : Int)).tdiv ((x - p.1 : Nat) : Int)).toNat
    else curvePts t (x, v) s

/-- curve(T, s) of R154, in units of 2^−24. -/
def curveAt (c : Curve) (s : Nat) : Nat :=
  match c.points.take c.count with
  | [] => 0
  | (x, v) :: t => if s ≤ x then min v (2 ^ 24) else curvePts t (x, v) s

/-! ### Checks -/

def firstIdx {α : Type} (l : List α) (f : α → Bool) : Option Nat :=
  let i := l.findIdx f
  if i < l.length then some i else none

/-- Duplicate sections (R68): the rejection of the first pair, other than of DATA and TDESC. A type that R67 ignores makes
no pair (DESIGN CHOICE, log entry 79). -/
def duplicateSec (im : PlanImage) : Option Reject :=
  (List.range im.sections.length).findSome? fun i =>
    match im.sections[i]? with
    | none => none
    | some x =>
      if x.body.typ = 10 || x.body.typ = 5 || x.ignored then none
      else if (im.sections.take i).any fun y =>
        y.body.typ = x.body.typ && y.layout = x.layout && y.core = x.core then
        some { reason := 12, layout := if x.layout = 0xFF then 0 else x.layout, core := x.core, detail := 14 * 65536 + x.body.typ }
      else none

/-- A required section that some core of some layout lacks, or a type that is unknown (R68, R67): its rejection. -/
def missingSec (im : PlanImage) : Option Reject :=
  let unknown := im.sections.findSome? fun x =>
    if (x.body.typ = 0 || 11 < x.body.typ) && !x.ignored then
      some { reason := 12, layout := if x.layout = 0xFF then 0 else x.layout, core := x.core, detail := x.body.typ } else none
  unknown.or ((List.range im.layoutCount.toNat).findSome? fun l =>
    match im.layoutSec l with
    | none => some { reason := 12, layout := l, detail := 1 }
    | some ls => [1, 2, 3, 4, 6].findSome? fun t =>
      ((List.range ls.cores).find? fun c => (im.inEffect t l c).isNone).map fun c =>
        { reason := 12, layout := l, core := c, detail := t })

def mask32 (l : LayerRec) : Bool := l.level = 1 || l.level = 2 || l.level = 4

/-- A curve block is well formed: counts 1–64 (R155). More than the 256 tables a block may hold are rejected like a wrong
count (DESIGN CHOICE, log entry 79). -/
def curvesOk (cs : List Curve) : Bool := cs.length ≤ 256 && cs.all fun c => 1 ≤ c.count && c.count ≤ 64

/-- Bytes of a PM32 tile copy at its largest, rounded up to 64 (R466). -/
def tileSpan (fmt maskBytes : Nat) : Nat :=
  let w := if fmt = 4 then 32 else if fmt ≤ 1 then 16 else 8
  roundUp (32 * (4 * w + 4) + maskBytes + 1) 64

/-- Mask-plane bytes of the tile of an update record: its work record's level, 0 at TN8. -/
def maskBytesOf (sites : List Nat) (works : List WorkRec) (layers : FMap LayerRec) (u : UpdateRec) : Nat :=
  match works.find? fun w => w.valueAddr.addr sites = u.valueAddr.addr sites with
  | none => 0
  | some w => match FMap.find w.layer layers with
    | some l => if l.level < 8 && 0 < l.level then 1024 / l.level else 0
    | none => 0

/-- Length of a cut slot of one package (R466). -/
def cutSlotLen (sites : List Nat) (works : List WorkRec) (layers : FMap LayerRec) (ups : List UpdateRec) (n : Nat) :
    Nat :=
  let us := ups.filter fun u => u.planisher = n
  roundUp (128 + 32 * us.length) 64 + us.foldl (fun a u => a + tileSpan u.fmt (maskBytesOf sites works layers u)) 0

/-- Bytes of the base copy of a package's frozen records. -/
def baseCopyLen (ck : CkptSec) (n : Nat) : Nat :=
  (ck.frozen.filter fun f => f.2.2 = n).foldl (fun a f => a + f.2.1) 0

/-- Whether the replay ring is smaller than its minimum (R328). -/
def ringShort (ck : Option CkptSec) (st : Option StreamSec) : Bool :=
  match ck, st with
  | some ck, some st =>
    let mx := (st.classes.filter fun c => c.en).foldl (fun a c => max a c.maxLen) 0
    decide (ck.ringLen < 4 * st.hdr.batch * (96 + roundUp mx 64) + 768)
  | _, _ => false

/-- SPN_LSTBL as it is held (R225): a grow of 0 is 1, and bits 5:4 of each event byte are 0, whatever is written (DEDUCED,
log entry 79). -/
def lstblHeld (w : Word) : Word :=
  let v := w &&& 0xFFFFFFFFCFCFCFCF
  if fld v 47 32 = 0 then setFld v 47 32 1 else v

/-- Whether a plane lies in the slices of island i. -/
def planeIn (i a n : Nat) : Bool :=
  a + n ≤ sramEnd && islandOf (a / sliceSize) = i && islandOf ((a + n - 1) / sliceSize) = i

/-- Working-copy bits of an update record's fmt (R207). -/
def fmtWidth (fmt : Nat) : Nat := if fmt = 4 then 32 else if fmt ≤ 1 then 16 else 8

/-- The conditions of R71 Table 13 for one layout on its binding, in table order: condition, section type and the core it
speaks of, 0xFFFF where it speaks of none. That of the phase-time ring, which lies in a slice of the binding, is put only
to a layout that can be bound. -/
def sectionCondition (s : State) (p : Nat) (im : PlanImage) (l : Nat) (sites : List Nat) : Option (Nat × Nat × Nat) :=
  match s.record p, im.layoutSec l with
  | some r, some ls =>
    let g := im.groupSec l
    let m := im.maskSec l
    let ups := match g with | some g => g.updates | none => []
    let works := match m with | some m => m.works | none => []
    let layers := match m with | some m => m.layers | none => []
    let bs := (List.range ls.cores).filterMap fun c => (im.boundSec l c).map fun b => (c, b)
    let qs := (List.range ls.cores).flatMap fun c => (im.queueDefs l c).map fun q => (c, q)
    let all (x : Nat × Nat) : Nat × Nat × Nat := (x.1, x.2, 0xFFFF)
    let bound := sites.length = ls.cores
    if 64 < ls.privileged.length then some (all (1, 1))
    else if works.any fun w => ups.any fun u => u.tier3 && u.valueAddr.addr sites = w.valueAddr.addr sites then
      some (all (2, 8))
    else if (match im.streamSec l with | some st => decide (r.slotCount < 2 * st.hdr.batch) | none => false) then
      some (all (3, 9))
    else if let some x := qs.find? fun x => x.2.en && (x.2.depth < 2 || sliceSize < x.2.base + x.2.depth * x.2.esize) then
      some (4, 9, x.1)
    else if ringShort (im.ckptSec l) (im.streamSec l) then some (all (5, 11))
    else if (match im.ckptSec l with
        | some ck => r.pkgs.any fun n =>
            decide (ck.ingotLen < 2 * ck.undoLen + 2 * cutSlotLen sites works layers ups n + baseCopyLen ck n)
        | none => false) then some (all (6, 11))
    else if let some x := bs.find? fun x =>
        let a := x.2.ringBase.addr sites
        let site := sites.getD x.1 0
        bound && (a < sliceBase site || sliceBase site + sliceSize < a + 32 * 2 ^ x.2.ringK) then some (7, 6, x.1)
    else if (match g with
        | some g => decide (0x1200000000 < g.ringOff + 32 * 2 ^ g.ringK)
        | none => false) then some (all (8, 7))
    else if (match m with
        | some m => !m.curveBlockOk || !curvesOk m.curves ||
        (m.layers.any fun x => mask32 x.2 && (m.curves.length ≤ x.2.dropCurve || m.curves.length ≤ x.2.densCurve))
        | none => false) then some (all (9, 8))
    else if (match g with
        | some g => !g.curveBlockOk || !curvesOk g.curves ||
        (g.updates.any fun u => match FMap.find u.group g.groups with
          | some e => decide (g.curves.length ≤ e.lrCurve)
          | none => g.curves.isEmpty)
        | none => false) then some (all (9, 7))
    else if let some x := bs.find? fun x => !x.2.curveBlockOk || !curvesOk x.2.curves then some (9, 6, x.1)
    else if layers.any fun x => x.2.period = 0 then some (all (10, 8))
    else if (match g with | some g => g.sweeps.any fun w => w.period = 0 | none => false) then some (all (11, 7))
    else if ups.any fun u => 4 < u.fmt then some (all (12, 7))
    else if works.any fun w =>
        match FMap.find w.layer layers with
        | none => true
        | some ly =>
          let v := w.valueAddr.addr sites
          let i := islandOf (v / sliceSize)
          match ups.find? fun u => u.valueAddr.addr sites = v with
          | none => true
          | some u =>
            !(planeIn i v (128 * fmtWidth u.fmt) && r.hasIsland i &&
              (!mask32 ly || planeIn i (w.maskAddr.addr sites) (1024 / ly.level))) ||
            (mask32 ly && ly.bcols = 0) then some (all (13, 8))
    else if layers.any fun x => mask32 x.2 && x.2.bcols = 0 then some (all (13, 8))
    else none
  | _, _ => none

/-- The first layout of an image that fails a condition of R71, the chosen one before the others in ascending order; each
on the binding that R63 would give it. -/
def badLayout (s : State) (p : Nat) (im : PlanImage) (good : List Nat) (chosen : Nat) : Option (Nat × Nat × Nat × Nat) :=
  (chosen :: (List.range im.layoutCount.toNat).filter (· ≠ chosen)).findSome? fun l =>
    let cores := match im.layoutSec l with | some ls => ls.cores | none => 0
    (sectionCondition s p im l (good.take cores)).map fun c => (l, c)

/-! ### Reachable code (R58, R227) -/

/-- Successors of an instruction at pc: jumps by register reach every return address of the reachable links. p0 is true,
so that an instruction that names it always executes or is always squashed (R293). -/
def succs (x : Instr) (pc : Nat) (links : List Nat) : List Nat :=
  let next := (pc + 1) % 16384
  let branch (i : Issue) (l : List Nat) : List Nat :=
    if i.pr ≠ 0 then l ++ [next] else if i.pn = 0 then l else [next]
  match x with
  | .ctlBr i o => branch i [o.tgt.toNat]
  | .ctlJal i o => branch i [o.tgt.toNat]
  | .ctlJr i _ => branch i links
  | .ctlHalt i _ => branch i []
  | _ => [next]

/-- The instruction at a program counter: none at a reserved word, which aborts the task, and beyond the code (R294). -/
def instrAt (code : List Word) (pc : Nat) : Option Instr :=
  (code[pc]?).bind fun w => if reservedWord w then none else decode 0 w

/-- Return addresses of every ctl.jal among these words of the code that can execute. -/
def linkTargets (code : List Word) (pcs : List Nat) : List Nat :=
  pcs.filterMap fun pc =>
    match instrAt code pc with
    | some (.ctlJal i _) => if i.pr = 0 && i.pn ≠ 0 then none else some ((pc + 1) % 16384)
    | _ => none

/-- Reachable program counters from a worklist; words beyond the image are reserved and end a path. -/
def reachFrom (code : List Word) (links : List Nat) : Nat → List Nat → List Nat → List Nat
  | 0, _, seen => seen
  | _ + 1, [], seen => seen
  | f + 1, pc :: t, seen =>
    if seen.contains pc then reachFrom code links f t seen
    else match instrAt code pc with
    | none => reachFrom code links f t (pc :: seen)
    | some x => reachFrom code links f (succs x pc links ++ t) (pc :: seen)

/-- Rounds that find the links of reachable code, and with them more reachable code. -/
def reachRounds (code : List Word) (entry : Nat) : Nat → List Nat → List Nat
  | 0, _ => []
  | n + 1, links =>
    let seen := reachFrom code links ((code.length + 1) * (links.length + 3) + 1) [entry] []
    let more := linkTargets code seen
    if more.all links.contains then seen else reachRounds code entry n more

/-- Reachable program counters of a task (R58, R227), in the order they are reached. -/
def reachable (code : List Word) (entry : Nat) : List Nat := (reachRounds code entry (code.length + 1) []).reverse

/-- Vector registers a word names (R227). -/
def vregsOf : Instr → List Nat
  | .vAdd _ o | .vSub _ o | .vMul _ o | .vMax _ o | .vMin _ o | .vDiv _ o | .vIadd _ o | .vIsub _ o | .vImul _ o
  | .vAnd _ o | .vOr _ o | .vXor _ o | .vShl _ o | .vShr _ o | .vShru _ o | .vCeq _ o | .vCne _ o | .vClt _ o
  | .vCle _ o | .vCgt _ o | .vCge _ o | .vCun _ o =>
    [o.vd.toNat, o.va.toNat] ++ (if o.bs = 1 then [] else [o.vb.toNat])
  | .vFma _ o | .vSel _ o => [o.vd.toNat, o.va.toNat, o.vc.toNat] ++ (if o.bs = 1 then [] else [o.vb.toNat])
  | .vAbs _ o | .vNeg _ o | .vSqrt _ o | .vExp2 _ o | .vLog2 _ o | .vCvt _ o | .vBcast _ o | .vTr32 _ o =>
    [o.vd.toNat, o.va.toNat]
  | .vPack _ o | .vUnpk _ o | .vPerm _ o => [o.vd.toNat, o.va.toNat, o.vb.toNat]
  | .vIns _ o => [o.vd.toNat]
  | .vLd _ o | .vSt _ o => [o.vr.toNat]
  | .vGth _ o | .vSct _ o | .vSadd _ o => [o.vr.toNat, o.vx.toNat]
  | .vDot _ o => [o.va.toNat, o.vb.toNat]
  | .vSum _ o | .vSsq _ o | .vRmax _ o | .vRmin _ o | .vMv _ o | .vCnt _ o | .vExt _ o => [o.va.toNat]
  | .stPop _ o => [o.vd.toNat]
  | .rnDrop _ o => [o.vd.toNat, o.vs.toNat]
  | .rnWord _ o => [o.vd.toNat]
  | _ => []

/-- Whether a store's descriptor stays inside the scratch range of its task (R58). -/
def inScratch (tds : FMap DescImg) (scratch : Option (Nat × Nat)) (td : Nat) : Bool :=
  match FMap.find td tds, scratch with
  | some d, some (a, n) => (planes d ++ codebook d).all fun x => a ≤ x.1 && x.1 + x.2 ≤ a + n
  | _, _ => false

/-- Forbidden in an idempotent task (R58). -/
def forbidden (tds : FMap DescImg) (scratch : Option (Nat × Nat)) : Instr → Bool
  | .ctlSig .. | .upAcc .. | .dmGo .. => true
  | .vSt _ o | .vSct _ o | .vSadd _ o => !inScratch tds scratch o.td.toNat
  | _ => false

/-! ### One core -/

/-- A task-table entry of 128 bits (R53 Table 6). -/
def TaskDef.entry (t : TaskDef) (sites : List Nat) : BitVec 128 :=
  BitVec.ofNat 128 (t.arg.addr sites * 2 ^ 76 + t.entryPc * 2 ^ 62 + t.firstCtx * 2 ^ 54 + (t.ctxCount - 1) * 2 ^ 46 +
    t.phase * 2 ^ 43 + t.trigger * 2 ^ 41 + t.trigSlot * 2 ^ 35 + t.trigCount * 2 ^ 19 + t.retryLimit * 2 ^ 17 +
    b2n t.idem * 2 ^ 16 + b2n t.doneEn * 2 ^ 15 + t.doneCore * 2 ^ 6 + t.doneSlot)

/-- The entry the loader writes where the TASK section defines none: trigger 3 (R53). -/
def unusedEntry : BitVec 128 := BitVec.ofNat 128 (3 * 2 ^ 41)

/-- The first bad task of a TASK section (R53). A section of more than 32 tasks answers index 32 (DESIGN CHOICE, log entry
76). -/
def badTask (ts : List TaskDef) : Option Nat :=
  if 32 < ts.length then some 32
  else firstIdx ((List.range ts.length).map fun i => (ts.take i, ts[i]?)) fun x =>
    match x.2 with
    | none => false
    | some t =>
      t.trigger = 3 || (t.trigger = 1 && t.trigCount = 0) || t.ctxCount = 0 || 256 < t.firstCtx + t.ctxCount ||
      x.1.any fun u => u.firstCtx < t.firstCtx + t.ctxCount && t.firstCtx < u.firstCtx + u.ctxCount

/-- The first bad wheel entry (R69 code 0x0008): a context outside every task, or a segment beyond the table, which
answers the segment's start index (DESIGN CHOICE, log entry 76). -/
def badWheel (w : WheelSec) (ts : List TaskDef) : Option Nat :=
  (firstIdx w.entries fun e =>
    let c := fld e 15 8
    !(ts.any fun t => t.firstCtx ≤ c && c < t.firstCtx + t.ctxCount)).or
  ((w.segments.find? fun sg => 4096 < sg.1 + sg.2 || sg.2 = 0).map fun sg => sg.1)

/-- A list as a map from its positions. -/
def toMap {α : Type} (l : List α) : FMap α := (List.range l.length).zip l

/-- STQ_CFG of a queue definition (R260 Table 1): base and entry size in bytes. -/
def QueueDef.word (q : QueueDef) : Word :=
  BitVec.ofNat 64 (q.base / 64 * 2 ^ 44 + (q.depth - 1) % 4096 * 2 ^ 28 + (q.esize / 64 - 1) % 16 * 2 ^ 24 + b2n q.en)

/-- LSCALE at plan load (R204, R225 Table 15). -/
def lscaleWord (ls : Int) (step : Nat) : Word := BitVec.ofNat 64 (wrap 8 ls * 2 ^ 56 + step % 2 ^ 56)

/-- The state in which R69 leaves a core after binding; counters that count from plan load start at 0 when `fresh`,
and stay when a replay resets the core (R246, R342). No section carries MX_CFG: a load gives it its reset value and a
replay keeps it (DESIGN CHOICE, log entry 76). hold stays 1 until every step has succeeded. -/
def buildCore (old : Core) (im : PlanImage) (l r : Nat) (sites : List Nat) (fresh : Bool) : Core :=
  let w := im.wheelSec l r
  let ts := im.taskSec l r
  let seg (k : Nat) : Nat × Nat := w.segments.getD k (0, 1)
  let start := (seg 0).1
  let ls0 : Int := match im.groupSec l with | some g => g.ls.toInt | none => 16
  let ring := match im.boundSec l r with
    | some b => BitVec.ofNat 64 (max 4 (min 20 b.ringK) * 2 ^ 58 + b.ringBase.addr sites / 32 * 32)
    | none => old.phaseRing
  let qs := im.queueDefs l r
  let priv := match im.layoutSec l with | some b => b.privileged.contains r | none => false
  let base : Core := {
    code := toMap ((im.codeSec l r).take 16384)
    codeFill := 0xFFFFFFFFFFFFFFFF
    wheel := toMap (w.entries.map fun e => setFld e 3 0 0)
    segs := (List.range (min 8 w.segments.length)).map fun k => (k, BitVec.ofNat 64 ((seg k).1 + ((seg k).2 - 1) * 4096))
    cursor := BitVec.ofNat 12 start
    left := fld (w.entries.getD start 0) 7 4 + 1
    segNext := 8
    segment := 0
    hold := true
    wdogLog2 := max 16 (min 40 w.wdogLog2)
    tasks := (List.range 32).map fun i => (i, match ts[i]? with | some t => TaskDef.entry t sites | none => unusedEntry)
    runs := (List.range ts.length).filterMap fun i => (ts[i]?).map fun t =>
      (i, { vmask := t.vmask, scratch := t.scratch.map fun x => (x.1.addr sites, x.2) })
    binding := toMap (sites.map fun x => BitVec.ofNat 16 (0x8000 + x))
    queues := qs.foldl (fun m q => FMap.insert q.q { cfg := QueueDef.word q } m) []
    lscale := lscaleWord ls0 (2 ^ 56 - 1)
    phaseRing := ring
    priv := priv
    bound := true
    rel := r
    ta := old.ta.emptied
    tb := old.tb.emptied
    fenced := old.fenced
    ident := old.ident }
  if fresh then base
  else { base with
    vecOob := old.vecOob, vecLane := old.vecLane, misses := old.misses, head := old.head, taskFlt := old.taskFlt,
    spFlt := old.spFlt, spFltWord := old.spFltWord, cdrn := old.cdrn, mxCfg := old.mxCfg,
    queues := base.queues.map fun x => (x.1, { x.2 with misses := (old.queue x.1).misses }) }

/-- A core that a plan leaves: hold set, every context UNUSED, every descriptor slot invalid (R70, R257, R346). -/
def Core.parked (c : Core) : Core :=
  { c with hold := true, threads := [], runs := [], inflight := [], vArith := [], loadPath := [], bars := [],
           slots := [], tds := [], phases := [], stall := false, bound := false, accOut := 0,
           queues := c.queues.map fun x => (x.1, { x.2 with reqs := [], ring := [], next := 0 }),
           ta := c.ta.emptied, tb := c.tb.emptied }

/-! ### Layout choice and binding (R38–R40, R63) -/

/-- Sites of allotment p that may serve, in ascending order. -/
def State.goodSites (s : State) (p : Nat) : List Nat :=
  (List.range 576).filter fun x => s.allotOfSite x = some p && s.siteGood x

/-- A package of a layout that is fenced or outside the allotment. -/
def badPackage (s : State) (p : Nat) (ls : LayoutSec) : Option Nat :=
  match s.record p with
  | none => ls.packages.head?
  | some r => ls.packages.find? fun n => !r.packages.getLsbD n || !s.pkgOk n

/-- The layout that fits: the primary if it does, else the largest core count that does (R39, R40). -/
def chooseLayout (s : State) (p : Nat) (im : PlanImage) (primaryFirst : Bool) : Option Nat :=
  let good := (s.goodSites p).length
  let fits (l : Nat) : Bool :=
    match im.layoutSec l with
    | some ls => ls.cores ≤ good && (badPackage s p ls).isNone
    | none => false
  let cores (l : Nat) : Nat := match im.layoutSec l with | some ls => ls.cores | none => 0
  if primaryFirst && fits 0 then some 0
  else (List.range im.layoutCount.toNat).foldl (fun a l =>
    if !fits l then a
    else match a with
      | none => some l
      | some b => if cores b < cores l then some l else some b) none

/-- Cores in service over the module (R23, R350). -/
def State.inService (s : State) : Nat :=
  (List.range 8).foldl (fun a p =>
    let sp := s.spine p
    a + (if sp.st = .loaded || sp.st = .stopped then (match sp.plan with | some pl => pl.cores | none => 0) else 0)) 0

/-! ### Loading -/

/-- The checks that need only the image (R69, lines 1 to 4). No reason code is for a layout_count outside 1–8: it is not
checked, and at 0 no layout fits (DESIGN CHOICE, log entry 79). -/
def imageChecks (im : PlanImage) : Option Reject :=
  if im.magic ≠ 0x4C504255 || im.formatMajor ≠ 1 then some { reason := 1, detail := im.formatMajor.toNat }
  else if !im.headerOk || !im.imageOk then some { reason := 2, detail := 0xFFFFFFFF }
  else match firstIdx im.sections fun x => !x.crcOk with
  | some i => some { reason := 2, detail := i }
  | none =>
    if im.revision ≠ 0x20 then some { reason := 3, detail := im.revision.toNat }
    else
      let dig (l : Nat) : Option Word32 := (im.layoutSec l).map fun x => x.digest
      match (List.range im.layoutCount.toNat).find? fun l => match dig l, dig 0 with
        | some a, some b => a ≠ b
        | _, _ => false with
      | some l => some { reason := 4, layout := l, detail := l }
      | none =>
        match missingSec im with
        | some r => some r
        | none => match duplicateSec im with
          | some r => some r
          | none => none

/-- Loads one core (R69, inner loop): checks 0x0007 to 0x000E in order, then its descriptors. A request that names a core
that is not bound is submitted, and rejected, in the last core's turn. -/
def loadCore (p : Nat) (im : PlanImage) (l : Nat) (sites : List Nat) (r : Nat) (s : State) :
    Except Reject Unit × State :=
  let site := sites.getD r 0
  let rej (reason detail : Nat) (s : State) : Except Reject Unit × State :=
    (.error { reason, layout := l, core := r, site, detail }, s)
  let code := im.codeSec l r
  let ts := im.taskSec l r
  if 16384 < code.length then rej 7 code.length s
  else match badWheel (im.wheelSec l r) ts with
  | some i => rej 8 i s
  | none => match badTask ts with
    | some i => rej 9 i s
    | none =>
      let s1 := s.setCore site (buildCore (s.core site) im l r sites true)
      let reqs := ((im.allOf 5 l).flatMap fun b => match b with | .tdesc q => q | _ => []).filter fun q =>
        min q.core.toNat (sites.length - 1) = r
      let tds := (reqs.filter fun q => q.core.toNat = r).foldl (fun m q => match translateReq sites q with
        | .ok d => FMap.insert q.slot.toNat d m
        | .error _ => m) ([] : FMap DescImg)
      let bad := ts.findSome? fun t =>
        if t.idem then
          (reachable code t.entryPc).find? fun pc => match instrAt code pc with
            | some x => forbidden tds (t.scratch.map fun y => (y.1.addr sites, y.2)) x
            | none => false
        else none
      match bad with
      | some pc => rej 10 pc s1
      | none =>
        match firstIdx ts fun t => (reachable code t.entryPc).any fun pc => match instrAt code pc with
            | some x => (vregsOf x).any fun v => !t.vmask.getLsbD v
            | none => false with
        | some i => rej 14 i s1
        | none => eachOk (fun q s => match submit s p sites q with
          | .ok s' => (.ok (), s')
          | .error c => (.error {
              reason := 11, layout := l, core := q.core.toNat, site := sites.getD q.core.toNat 0xFFFF
              detail := c + q.slot.toNat * 256 + q.core.toNat * 65536 }, s)) reqs s1

/-- Group table entry bytes (R209 Table 4). -/
def GroupEnt.bytes (g : GroupEnt) : List Byte :=
  leBytes 1 g.rule ++ leBytes 1 g.lrCurve ++ leBytes 1 (b2n g.biasCorr) ++ [0] ++ leBytes 4 g.lrBase.toNat ++
  leBytes 4 g.beta1.toNat ++ leBytes 4 g.beta2.toNat ++ leBytes 4 g.eps.toNat ++ leBytes 4 g.lambda.toNat ++
  leBytes 4 g.trMax.toNat ++ leBytes 2 g.assayPeriod ++ List.replicate 34 0

/-- Writes the DATA sections of a layout (R69), to the slices now bound where they lay in those of `from_` (R326); a replay
writes only those in tier 1 (R337). -/
def writeData (p : Nat) (im : PlanImage) (l : Nat) (from_ sites : List Nat) (tier1 : Bool) (s : State) :
    Except Unit Unit × State :=
  eachOk (fun w s =>
    let a := (w.1.rebase from_ sites).addr sites
    if tier1 && sramEnd ≤ a then (.ok (), s) else storeOk p a w.2 s) (im.data l) s

/-- Zeroes the phase rings of the bound cores (R69). -/
def zeroRings (sites : List Nat) (s : State) : State :=
  forEach sites s fun s x =>
    let w := (s.core x).phaseRing
    s.putZeros (fld w 51 5 * 32) (32 * 2 ^ fld w 63 58)

/-- The reduction buffers of the update map and the buffers of the probe-buffer list, with their scales (R196, R467): address
and length. -/
def Plan.buffers (pl : Plan) : List (Nat × Nat) :=
  (pl.updates.map fun u => (u.bufAddr.addr pl.sites, 2080)) ++
  pl.probes.flatMap fun b => [(b.valueAddr.addr pl.sites, 64 * b.blocks), (b.scaleAddr.addr pl.sites, b.blocks)]

/-- Sets reduction buffers and probe buffers to +0 with scale 0 (R196, R467). -/
def zeroBuffers (p : Nat) (pl : Plan) (s : State) : Except Unit Unit × State :=
  eachOk (fun x s => storeOk p x.1 (List.replicate x.2 0) s) pl.buffers s

/-- Sets the parked gradients of tier-3 tiles to 0 (R218). -/
def zeroParked (p : Nat) (pl : Plan) (s : State) : Except Unit Unit × State :=
  eachOk (fun u s => if u.tier3 then storeOk p u.parkAddr (List.replicate 4096 0) s else (.ok (), s)) pl.updates s

/-- The plan as it is bound (R63, R326); loadSites are the good sites of the allotment at its load, to whose lowest ones
absolute addresses of the image refer. -/
def mkPlan (im : PlanImage) (l : Nat) (sites loadSites : List Nat) : Plan :=
  let ls := im.layoutSec l
  let g := im.groupSec l
  let m := im.maskSec l
  let b := im.boundSec l 0
  { img := im, layout := l, cores := sites.length, sites := sites, loadSites := loadSites
    packages := match ls with | some x => x.packages | none => []
    updates := match g with | some x => x.updates | none => []
    works := match m with | some x => x.works | none => []
    layers := match m with | some x => x.layers | none => []
    maskCurves := match m with | some x => x.curves | none => []
    probes := match m with | some x => x.probes | none => []
    groups := match g with | some x => x.groups | none => []
    groupCurves := match g with | some x => x.curves | none => []
    sweeps := match g with | some x => x.sweeps | none => []
    stream := match im.streamSec l with
      | some x => x
      | none => { hdr := { window := false, realTime := false, batch := 0, manSlot := 0, manCore := 0, t0 := 0,
                           width := 1, lag := 0, manOff := 0, rejK := 4, phK := 4, rejBase := 0, phBase := 0 },
                  classes := [], queues := [], owners := [] }
    ckpt := im.ckptSec l
    point := match b with
      | some x => x.point
      | none => { step := 0, temp := 0, tempTol := 0, clkTol := 0, hostMax := 0, ballast := 255 }
    boundCurves := match b with | some x => x.curves | none => []
    plnBounds := match b with | some x => x.plnBounds | none => []
    ingestBound := match b with | some x => x.ingestBound | none => 0 }

/-- Work-list indices of the tiles whose value plane lies in island i (R148, R151). -/
def worksOf (pl : Plan) (i : Nat) : List Nat :=
  (List.range pl.works.length).filter fun k => match pl.works[k]? with
    | some w => islandOf (w.valueAddr.addr pl.sites / sliceSize) = i
    | none => false

/-- Ballast selection of a stated point: 256 is the built-in curve (R396, R403). -/
def StatedPoint.sel (pt : StatedPoint) : Nat := if pt.ballast = 0xFF then 256 else pt.ballast

/-- A Vetch unit at plan load, where its counters start again, and after a replay, which appends the records that move
to it to its list (R150, R172). VETCH_STEP and the status bits stay those of the last mask phase. -/
def Vetch.init (old : Vetch) (mine : List Nat) (fresh : Bool) : Vetch :=
  let kept := if fresh then [] else old.works.filter mine.contains
  { works := kept ++ mine.filter fun k => !kept.contains k
    statStep := old.statStep
    illegal := old.illegal, short := old.short, noList := old.noList, skipped := old.skipped
    cnts := if fresh then [] else old.cnts }

/-- Operating point, work lists and levels of the islands of an allotment (R396, R399, R151). -/
def initIslands (r : AllotRec) (pl : Plan) (fresh : Bool) (s : State) : State :=
  let s1 := forEach r.islands s fun s i => s.modIsland i fun x =>
    { x with
      oppTemp := BitVec.ofInt 8 pl.point.temp
      oppTol := BitVec.ofNat 8 (if pl.point.tempTol = 0 then 10 else pl.point.tempTol)
      oppClkTol := BitVec.ofNat 8 pl.point.clkTol
      planStep := pl.point.step
      step := max x.capStep pl.point.step
      relock := none
      vetch := Vetch.init x.vetch (worksOf pl i) fresh
      origins := []
      gov := { x.gov with planned := x.calRest.toNat, allowed := x.calRest.toNat, ramp := none,
                          bsel := StatedPoint.sel pl.point, idleTicks := 0 } }
  let s2 := forEach r.islands s1 fun s i => (s.setRail i).evalStale i
  forEach r.pkgs s2 fun s n => s.modPkg n fun x =>
    { x with origins := [], phases := [], gov := { x.gov with
      planned := x.gov.rest, allowed := x.gov.rest, ramp := none, bsel := StatedPoint.sel pl.point, idleTicks := 0 } }

/-- DMA channel owners (R278): listed channels to their core, the rest to the resident operating system. -/
def initChannels (r : AllotRec) (pl : Plan) (s : State) : State :=
  forEach r.islands s fun s i => s.modIsland i fun x =>
    { x with chans := (List.range 32).filterMap fun ch =>
        let old := FMap.getD x.chans ch {}
        match pl.stream.owners.find? fun o => o.island = i && o.ch = ch with
        | some o => some (ch, { old with owner := BitVec.ofNat 16 o.core, next := setFld old.next 0 0 0 })
        | none => if old = {} then none else some (ch, { old with owner := 0xFFFF }) }

/-- The runtime state of a group at plan load (R210). -/
def runtimeInit : List Byte := leBytes 4 0x3F800000 ++ leBytes 4 0x3F800000 ++ leBytes 4 0x3F800000 ++ [0, 0, 0, 0]

/-- The loader-owned registers of a memory controller (R434). -/
def Package.loaderRegs (x : Package) (n : Nat) (g : GroupSec) : Package :=
  { x with
    grpBase := BitVec.ofNat 64 ((lpBase n + g.grpOff) % 2 ^ 52 / 4096 * 4096)
    ring := BitVec.ofNat 64 (max 4 (min 20 g.ringK) * 2 ^ 58 + (lpBase n + g.ringOff) % 2 ^ 52 / 32 * 32) }

/-- The loader-owned registers of a spine partition (R434); without a GROUP or a CKPT section those it would give stay. -/
def Spine.loaderRegs (sp : Spine) (g : Option GroupSec) (ck : Option CkptSec) : Spine :=
  let sp1 := match g with
    | some g => { sp with
        vcfg := g.vcfg, skipThr := g.skipThr, clipThr := g.clipThr, lstbl := lstblHeld g.lstbl, ls := g.ls
        vring := BitVec.ofNat 64 (max 4 (min 20 g.vringK) * 2 ^ 58 + g.vringBase % 2 ^ 52 / 32 * 32) }
    | none => sp
  match ck with
  | some c => { sp1 with ingot := { sp1.ingot with cfg := BitVec.ofNat 64 (c.hw % 16 * 16 + c.replayMax % 16) } }
  | none => sp1

/-- A Planisher as a load leaves it; the assay counts start again (R431). -/
def Package.idle (x : Package) : Package :=
  { x with
    pass := .none, waiting := true, clearOnly := false, changes := [], msg := none, todo := [], mism := 0, assayed := 0 }

/-- Planishers at plan load: the group table of 4,096 entries, zero where the section holds none, and the runtime state
of every group in each package (R209, R210), phase ring (R441). A table that leaves its package ends the load. -/
def initPackages (r : AllotRec) (g : Option GroupSec) (s : State) : Except Unit Unit × State :=
  match g with
  | none => (.ok (), forEach r.pkgs s fun s n => s.modPkg n Package.idle)
  | some g => eachOk (fun n s =>
    let base := lpBase n + g.grpOff
    if !s.inPackage n base 0x50000 then (.error (), s)
    else
      let s1 := g.groups.foldl (fun s e => s.putDev (base + 64 * e.1) (GroupEnt.bytes e.2)) (s.putZeros base 0x40000)
      let s2 := s1.putBulk (base + 0x40000) ((List.replicate 4096 runtimeInit).flatten)
      (.ok (), s2.modPkg n fun x => { (x.idle.loaderRegs n g) with ringHead := 0 })) r.pkgs s

/-- The spine partition at plan load (R225, R206, R342). An image without a GROUP section leaves SPN_LS as it is (DESIGN
CHOICE, log entry 79). -/
def initSpine (sp : Spine) (pl : Plan) (g : Option GroupSec) : Spine :=
  let sp1 := sp.loaderRegs g pl.ckpt
  { sp1 with
    st := .loaded, plan := some pl, everLoaded := true, clean := 0
    step := 0, acc := {}, nf := 0, reports := [], marksIn := [], endMarks := [], prdReports := []
    lastVerdict := none, boundaryOf := none, verdicts := [], updDone := [], updEnded := false
    maskDone := [], trSums := [], trDone := true
    ingot := {
      skipped := sp.ingot.skipped, forced := sp.ingot.forced, expAddr := sp.ingot.expAddr, expStatus := sp.ingot.expStatus
      cfg := sp1.ingot.cfg }
    ingest := { cntTaken := 0 } }

/-- Every core of the allotment on hold with every context UNUSED (R70). -/
def parkCores (r : AllotRec) (s : State) : State :=
  forEach ((List.range 576).filter fun x => r.hasIsland (islandOf x)) s fun s x =>
    if (s.core x).bound || !(s.core x).hold || (s.core x).threads ≠ [] then s.modCore x Core.parked else s

/-- The step whose origin a mark is (R64). -/
def Mark.origin : Mark → Option Word
  | .step _ => none
  | .boundary n => some (n + 1)
  | .planStart => some 0
  | .replayStart n => some n

/-- Sends a mark to every compute island of the allotment (R33, R393); an origin mark reaches its Planishers and the
stream-ingest island at once. -/
def sendMark (r : AllotRec) (m : Mark) (s : State) : State :=
  let s1 := forEach r.islands s fun s i => s.modIsland i fun x => { x with marks := x.marks ++ [m] }
  match m.origin with
  | none => s1
  | some n =>
    let o := (n, s.ticks)
    let s2 := forEach r.pkgs s1 fun s k => s.modPkg k fun x => { x with origins := o :: x.origins }
    s2.modSpine r.port fun sp => { sp with ingest := { sp.ingest with origins := o :: sp.ingest.origins } }

/-- The rejection of a load whose write met an address fault: Table 12 has no code for it, which is free (log entry 79). -/
def faultReject (l : Nat) : Reject :=
  { reason := Config.loadFaultReason.toNat, layout := l, detail := Config.loadFaultDetail.toNat }

/-- The counters of a core that count from plan load (R246, R437, R431). -/
def Core.countsCleared (c : Core) : Core :=
  { c with
    vecOob := 0, vecLane := 0, misses := 0, head := 0
    queues := c.queues.map fun x => (x.1, { x.2 with misses := 0 }) }

/-- The writes to memory of a load (R69, R196, R210, R218): each needs the one before it. -/
def loadWrites (p : Nat) (rec : AllotRec) (im : PlanImage) (pl : Plan) (s : State) : Except Unit Unit × State :=
  thenOk (writeData p im pl.layout pl.sites pl.sites false s) fun s =>
  thenOk (zeroBuffers p pl (zeroRings pl.sites s)) fun s =>
  thenOk (zeroParked p pl s) (initPackages rec (im.groupSec pl.layout))

/-- The registers a load leaves once its writes are done, with every hold cleared (R69). `mark` tells the islands that the
run starts. LSCALE takes 16 where no GROUP section gives an exponent (DESIGN CHOICE, log entry 79). -/
def loadRegisters (p : Nat) (rec : AllotRec) (im : PlanImage) (pl : Plan) (mark : Mark) (s : State) : State :=
  let g := im.groupSec pl.layout
  let s1 := initChannels rec pl (initIslands rec pl true
    (forEach rec.islands s fun s i => s.modIsland i fun x => { x with staleCnt := 0, spillBytes := 0, spillDense := 0 }))
  let s2 := s1.modSpine p fun sp => initSpine sp pl g
  let ls0 := match g with | some g => g.ls.toInt | none => 16
  let s3 := forEach (rec.islands.flatMap islandSites) s2 fun s x => s.modCore x fun c =>
    c.countsCleared.hears (lscaleWord ls0 (2 ^ 56 - 1)) (0 - 1) []
  sendMark rec mark (forEach pl.sites s3 fun s x => s.modCore x fun c => { c with hold := false })

/-- Binds the chosen layout and loads it (R69, from the binding on). -/
def bindPlan (s : State) (p : Nat) (rec : AllotRec) (im : PlanImage) (l : Nat) (sites : List Nat) (mark : Mark) :
    Except Reject Unit × State :=
  let s0 := forEach sites s fun s x => s.modCore x fun c => { c.parked with hold := true }
  match eachOk (loadCore p im l sites) (List.range sites.length) s0 with
  | (.error e, s1) => (.error e, s1)
  | (.ok _, s1) =>
    let pl := mkPlan im l sites (s.goodSites p)
    match loadWrites p rec im pl s1 with
    | (.error _, s2) => (.error (faultReject l), s2)
    | (.ok _, s2) => (.ok (), loadRegisters p rec im pl mark s2)

/-- R69 with the layout chosen by the rules of R39: its outcome, and the state, which a failed load leaves as far as it came.
`mark` tells the islands that the run starts. -/
def loadPlan (s : State) (p : Nat) (im : PlanImage) (mark : Mark) : Except Reject Unit × State :=
  match imageChecks im with
  | some r => (.error r, s)
  | none =>
    match s.record p with
    | none => (.error { reason := 6, detail := 0 }, s)
    | some rec =>
      match chooseLayout s p im true with
      | none =>
        let good := (s.goodSites p).length
        let byCores := (List.range im.layoutCount.toNat).find? fun l => match im.layoutSec l with
          | some ls => ls.cores ≤ good
          | none => false
        (match byCores with
        | none => .error { reason := 6, detail := good }
        | some l => .error { reason := 13, layout := l, detail := match (im.layoutSec l).bind (badPackage s p) with
            | some n => n
            | none => 0 }, s)
      | some l =>
        let cores := match im.layoutSec l with | some ls => ls.cores | none => 0
        let sites := (s.goodSites p).take cores
        match badLayout s p im (s.goodSites p) l with
        | some (k, c, t, core) => (.error { reason := 12, layout := k, core, detail := c * 65536 + t
                                            site := if core = 0xFFFF then 0xFFFF else (s.goodSites p).getD core 0xFFFF }, s)
        | none =>
          if 512 < s.inService + cores then (.error { reason := 5, layout := l, detail := s.inService + cores }, s)
          else bindPlan s p rec im l sites mark

/-- The state a failed load leaves (R70): every core of the allotment on hold with every context UNUSED. -/
def State.failedLoad (s : State) (p : Nat) : State :=
  match s.record p with
  | some r => parkCores r s
  | none => s

/-- Records a rejection in the log and on the host's queue (R70). Of the 20 bytes of event kind 2 the log record's body
takes 16, and body2 the last 4, the detail word (DESIGN CHOICE, log entry 76). -/
def State.recordReject (s : State) (p : Nat) (planId : Word) (r : Reject) : State :=
  let b := r.payload planId
  (s.logRecord 4 p (b.take 16) (b.drop 16)).postEvent p 2 b

end Sys2Proof.Machine
end

