-- ==== Sys2Proof/Machine/Apply.lean ====
section
/-! DEFINITION. What an issued operation does when it completes: vector memory operations (R229, R234, R240, R241),
stream pops (R262), scalar loads and stores (R300) and up.acc at its destination slice (R197–R200). -/

namespace Sys2Proof.Machine

/-- The result of an application: the state, the flags the thread gains, and the cause of an abort if it meets
poison (R312) or a fault. -/
structure Applied where
  s : State
  flags : Flags := 0
  cause : Option Nat := none

/-- Element numbers of a vector memory operation: (i, e), or none where the index is out of range (R240). -/
def vmemElems (v : VMem) : List (Nat × Option Nat) :=
  match v.op with
  | .ld | .st => (List.range v.n).map fun i => (i, some (v.off + i))
  | _ => (List.range v.n).map fun i =>
    let x := v.idx.getD i (-1)
    (i, if 0 ≤ x && x < v.desc.count then some x.toNat else none)

/-- Elements in range, as (i, e). -/
def vmemHits (v : VMem) : List (Nat × Nat) := (vmemElems v).filterMap fun x => x.2.map fun e => (x.1, e)

/-- Every byte range a vector memory operation touches, codebook included. -/
def vmemRanges (v : VMem) : List (Nat × Nat) :=
  (if v.desc.format = 8 then [(v.desc.aux.toNat, 32)] else []) ++ ((vmemHits v).flatMap fun x => elemBytes v.desc x.2)

/-- Those of them that it reads: its elements where it reads them, and the codebook. -/
def vmemReads (v : VMem) : List (Nat × Nat) :=
  (if v.desc.format = 8 then [(v.desc.aux.toNat, 32)] else []) ++
  (if v.op = .ld || v.op = .gth || v.op = .sadd then (vmemHits v).flatMap fun x => elemBytes v.desc x.2 else [])

/-- Counts out-of-range elements in VEC_OOB (R240, R246). -/
def countOob (c : Core) (gather : Bool) (n : Nat) : Core :=
  { c with vecOob := if gather then setFld c.vecOob 31 0 (min (fld c.vecOob 31 0 + n) (2 ^ 32 - 1))
                     else setFld c.vecOob 63 32 (min (fld c.vecOob 63 32 + n) (2 ^ 32 - 1)) }

/-- Applies a vector memory operation for allotment p. A load writes its register only when every element is in
(R229); an operation that meets poison changes nothing. -/
def applyVmem (s0 : State) (site p : Nat) (v : VMem) (check : ReadCheck) : Applied :=
  let rs := vmemReads v
  let s := match rs with
    | r :: _ => (match s0.resolveRange p r.1 r.2 false with | some l => s0.meet l check | none => s0).meetRanges p rs
    | [] => match (vmemHits v).head? with
      | some x => let b := (elemBytes v.desc x.2).headD (0, 0)
                  s0.writeCk p b.1 b.2 check
      | none => s0
  let dropped := (vmemElems v).countP fun x => x.2.isNone
  if rs.any fun r => s.poisonAt p r then
    { s := if check = .uncorrectable || !(rs.any fun r => s0.poisonAt p r) then s else s.reportAt p rs, cause := some 8 }
  else match v.op with
  | .ld | .gth =>
    let cb := if v.desc.format = 8 then s.codebook p v.desc.aux.toNat else []
    let (c, f) := (vmemElems v).foldl (fun (acc : Core × Flags) x =>
      match x.2 with
      | none => (acc.1.setVelem v.vr x.1 0, acc.2)
      | some e =>
        let (y, f) := loadElem s p v.desc cb v.ty (rndOf v.rm v.key x.1) v.ieee e
        (acc.1.setVelem v.vr x.1 y, acc.2 ||| f)) (s.core site, (0 : Flags))
    { s := s.setCore site (countOob c true dropped), flags := f }
  | .st | .sct =>
    let els := (vmemHits v).map fun x => (x.1, x.2, v.data.getD x.1 0)
    let put (s : State) (l : List (Nat × Nat × Word32)) : State × Flags :=
      storeElems s p v.desc v.ty (rndOf v.rm v.key) v.ieee l
    let (s1, f) := if v.op = .st || v.desc.format = 9 then put s els
      else els.foldl (fun (acc : State × Flags) x => ((put acc.1 [x]).1, acc.2 ||| (put acc.1 [x]).2)) (s, 0)
    { s := s1.modCore site fun c => countOob c false dropped, flags := f }
  | .sadd =>
    let fm := v.desc.format.toNat
    let r := (vmemHits v).foldl (fun (acc : State × Flags) x =>
      let a := (elemNib v.desc x.2).toNat
      let old := acc.1.peekNib p a 8
      let src := regElem v.ty (v.data.getD x.1 0)
      if fm = 5 then
        let (y, f1) := match src with
          | .fp w => toInt 32 .rne w
          | .int w => (w, (0 : Flags))
        let sum := signed 32 old + y
        let z := satI sum (intMin 32) (intMax 32)
        (acc.1.pokeNib p a 8 (wrap 32 z), acc.2 ||| f1 ||| fIf (z ≠ sum) fOverflow)
      else
        let (w, f1) := if v.ty = 0 then (src.val, (0 : Flags)) else roundFp .fp32 .rne v.ieee src.val
        let (z, f2) := add32 v.ieee (FFmt.decode .fp32 old) w
        (acc.1.pokeNib p a 8 (FFmt.encode .fp32 z), acc.2 ||| f1 ||| f2)) (s, (0 : Flags))
    { s := r.1.modCore site fun c => countOob c false dropped, flags := r.2 }

/-! ### The arithmetic pipe (R228, R229, R245) -/

/-- The oldest instruction of the arithmetic pipe writes its elements, its scalar register and its flags, and VEC_LANE
counts its lanes. -/
def Core.deliver (c : Core) (v : VecOp) : Core :=
  let c1 := match v.vd with
    | some d => v.elems.foldl (fun (c : Core) (e : Nat × Word32) => c.setVelem d e.1 e.2) c
    | none => c
  let t := (c1.thread v.ctx).setFlags v.flags
  let t1 := match v.sd with | some (r, x) => t.setReg r x | none => t
  { c1.setThread v.ctx t1 with vecLane := satAdd c1.vecLane v.lanes }

/-! ### Stream pops (R262) -/

/-- Bytes per register element of type ty. -/
def tyBytes (ty : Nat) : Nat := if ty < 2 then 4 else 2

/-- Marks the taken entry of ring position k released, and returns the free prefix to the ring (R262). -/
def dropReleased : List QEntry → List QEntry
  | [] => []
  | e :: t => if e.st = .released then dropReleased t else e :: t

def Queue.release (q : Queue) (f : QEntry → Bool) : Queue :=
  { q with ring := dropReleased (q.ring.map fun e => if f e then { e with st := .released } else e) }

/-- Applies an st.pop: writes the entry's elements and releases the entry. -/
def applyPop (s : State) (site p vd addr bytes ty q : Nat) (check : ReadCheck) : Applied :=
  let (r, s1) := s.readCk p addr bytes check
  match r with
  | .data l =>
    let w := tyBytes ty
    let c := (List.range (bytes / w)).foldl (fun c i => c.setVelem vd i (BitVec.ofNat 32 (ofLe (slice l (w * i) w))))
      (s1.core site)
    { s := s1.setCore site (c.setQueue q ((c.queue q).release fun e => sliceBase site + e.pos = addr)) }
  | _ => { s := s1, cause := some 8 }

/-! ### up.acc at the destination slice (R197–R200) -/

/-- The value of row i, element j of a G16 source or block row. -/
def g16Row (vals scales : List Byte) (i j : Nat) : Val :=
  g16Val (ofLe (slice vals (64 * i + 2 * j) 2)) (signed 8 (ofLe (slice scales i 1)))

/-- Whether the buffer at address a is pending: a Planisher of the allotment has it still to clear (R199). -/
def bufferPending (s : State) (p a : Nat) : Bool :=
  match s.record p, (s.spine p).plan with
  | some r, some pl => r.pkgs.any fun n => (s.pkg n).todo.any fun k =>
      match pl.updates[k]? with
      | some u => u.bufAddr.addr pl.sites = a
      | none => false
  | _, _ => false

/-- Adds the rows of u into the buffer blocks and forms nf and q. -/
def accRows (u : UpAcc) (src sc : List Byte) (dst dsc : List Byte) (sx : Int) :
    List Byte × List Byte × Bool × Val :=
  (List.range u.rows).foldl (fun (acc : List Byte × List Byte × Bool × Val) i =>
    let a (j : Nat) : Val := (g16Row src sc i j).scale (-sx)
    let b (j : Nat) : Val := if u.init then Val.zero else g16Row dst dsc i j
    let vs := (List.range 32).map fun j => (a j).add (b j)
    let (s, hs, fl) := g16Encode vs (fun _ => .rne) false
    let res := hs.map fun h => g16Val h s
    let nf := (List.range 32).any fun j => !(a j).isFin || !((res.getD j .nan).isFin) || (fl &&& fOverflow ≠ 0)
    let q := res.foldl (fun x v => x.add (v.mul v)) acc.2.2.2
    (acc.1 ++ (hs.map (leBytes 2)).foldl (· ++ ·) [], acc.2.1 ++ leBytes 1 (wrap 8 s), acc.2.2.1 || nf, q))
    ([], [], false, Val.zero)

/-- q of R200: +∞ beyond range; a NaN wins over an infinity. -/
def reportQ (q : Val) : Word32 := bits32 (roundFp .fp32 .rne true q).1

/-- Applies an up.acc of a core of allotment p: rows, re-encoding, and the report to the spine. -/
def applyUpAcc (s : State) (site p : Nat) (u : UpAcc) (check : ReadCheck) : Applied :=
  let (rv, s1) := s.readCk p u.src (64 * u.rows) check
  let (rs, s2) := s1.readCk p u.srcScale u.rows .clean
  let (rx, s3) := match u.sx with
    | none => (ReadResult.data [0], s2)
    | some a => s2.readCk p a 1 .clean
  let (rd, s4) := if u.init then (ReadResult.data [], s3) else s3.readCk p (u.dst + 64 * u.blk) (64 * u.rows) .clean
  let (rc, s5) := if u.init then (ReadResult.data [], s4) else s4.readCk p (u.dstScale + u.blk) u.rows .clean
  match rv, rs, rx, rd, rc with
  | .data src, .data sc, .data x, .data dst, .data dsc =>
    let (vb, sb, nf, q) := accRows u src sc dst dsc (signed 8 (ofLe x))
    let s6 := (s5.poke p (u.dst + 64 * u.blk) vb).poke p (u.dstScale + u.blk) sb
    let rep : Report := { core := (s.core site).rel, step := u.step, probe := u.probe, nf := !u.probe && nf,
                          q := if u.last && !u.probe then reportQ q else 0 }
    { s := s6.modSpine p fun sp => { sp with reports := sp.reports ++ [rep] } }
  | _, _, _, _, _ => { s := s5, cause := some 8 }

/-! ### Any operation -/

/-- The byte ranges that a scalar or vector operation reads or writes. -/
def MemOp.touched (o : MemOp) : List (Nat × Nat) :=
  match o.kind with
  | .load _ a w32 => [(a, if w32 then 4 else 8)]
  | .store a data => [(a, data.length)]
  | .vmem v => vmemRanges v
  | _ => []

/-- Applies an in-flight operation of a core of allotment p; one whose TLPs are discarded ends with an address fault. -/
def applyOp (s : State) (site p : Nat) (o : MemOp) (check : ReadCheck) : Applied :=
  if o.touched.any fun r => s.discards p r.1 r.2 then { s := s.aer p, cause := some 1 }
  else match o.kind with
  | .load rd addr w32 =>
    let (r, s1) := s.readCk p addr (if w32 then 4 else 8) check
    match r with
    | .data l => { s := if o.sb < 8 then s1.modCore site fun c =>
        c.setThread o.ctx ((c.thread o.ctx).setReg rd (BitVec.ofNat 64 (ofLe l))) else s1 }
    | _ => { s := s1, cause := some 8 }
  | .store addr data => { s := (s.writeCk p addr data.length check).poke p addr data }
  | .vmem v => applyVmem s site p v check
  | .pop vd addr bytes ty q => applyPop s site p vd addr bytes ty q check
  | .upAcc u => applyUpAcc s site p u check
  | .capture => { s := s }

/-- Completes the writes in flight of a core, in issue order, whatever they meet (R56, R337). -/
def drainWrites (s : State) (site p : Nat) : State :=
  let s1 := ((s.core site).inflight.filter fun o => o.write).foldl
    (fun s o => s.withWindow p o.win fun s =>
      let r := applyOp s site p o .clean
      if o.sb < 8 then r.s.modCore site fun c => c.setThread o.ctx ((c.thread o.ctx).setFlags r.flags) else r.s) s
  s1.modCore site fun c => { c with inflight := [] }

end Sys2Proof.Machine
end

