-- ==== Sys2Proof/Machine/Replay.lean ====
section
/-! DEFINITION. Ingot and what follows a fault: PM32 (R288, R289), cut slots (R466), fences (R324), wind-downs (R403),
the stop of an allotment (R340, R346, R354), and the abandonment of a step with its whole replay (R36–R39, R337). -/

namespace Sys2Proof.Machine

/-! ### PM32 (R288, R289) -/

/-- Values of w bits, least significant first; 4-bit values two to a byte (R75). -/
def packBits (w : Nat) : List Nat → List Byte
  | [] => []
  | x :: t =>
    if w = 4 then
      match t with
      | [] => [BitVec.ofNat 8 (x % 16)]
      | y :: t' => BitVec.ofNat 8 (x % 16 + 16 * (y % 16)) :: packBits w t'
    else leBytes (w / 8) x ++ packBits w t

/-- Element j of packed values of w bits. -/
def unpackAt (w : Nat) (l : List Byte) (j : Nat) : Nat :=
  if w = 4 then (ofLe (slice l (j / 2) 1) >>> (4 * (j % 2))) % 16 else ofLe (slice l (j * (w / 8)) (w / 8))

def unpackBits (w n : Nat) (l : List Byte) : List Nat := (List.range n).map (unpackAt w l)

/-- A group of 32 elements as PM32 STORE writes it. -/
def pm32Store (w : Nat) (els : List Nat) : List Byte :=
  let present := els.filter (· ≠ 0)
  let header := (List.range 32).foldl (fun a j => if els.getD j 0 ≠ 0 then a + 2 ^ j else a) 0
  if 4 + ceilDiv (present.length * w) 8 ≤ 4 * w then leBytes 4 header ++ packBits w present
  else leBytes 4 0xFFFFFFFF ++ packBits w els

/-- Bytes of the group that begins a PM32 stream, from its header. -/
def pm32Len (w header : Nat) : Nat :=
  4 + ceilDiv (((List.range 32).countP fun j => header.testBit j) * w) 8

/-- The 32 elements of a PM32 group. -/
def pm32Load (w : Nat) (l : List Byte) : List Nat :=
  let header := ofLe (slice l 0 4)
  if header = 0xFFFFFFFF then unpackBits w 32 (l.drop 4)
  else ((List.range 32).foldl (fun (acc : List Nat × Nat) j =>
    if header.testBit j then (acc.1 ++ [unpackAt w (l.drop 4) acc.2], acc.2 + 1) else (acc.1 ++ [0], acc.2)) ([], 0)).1

/-- A stream of n groups. -/
def pm32LoadN (w : Nat) : Nat → List Byte → List Nat
  | 0, _ => []
  | n + 1, l => pm32Load w l ++ pm32LoadN w n (l.drop (pm32Len w (ofLe (slice l 0 4))))

/-! ### Wind-downs, fences and the journal -/

/-- Starts a wind-down of gated island g (0–47) from its planned level (R403); a running ramp ends. -/
def State.windDown (s : State) (g : Nat) : State :=
  let f (x : GovIsland) (rest : Nat) (cv : Option Curve) : GovIsland :=
    { x with ramp := some { from_ := x.planned, target := rest, curve := cv, tick := 0, windDown := true, owner := none } }
  let cv (a : Option Nat) (sel : Nat) : Option Curve :=
    match a.bind fun p => (s.spine p).plan with
    | some pl => pl.boundCurves[sel]?
    | none => none
  if g < 36 then
    s.modIsland g fun x => { x with gov := f x.gov x.calRest.toNat (cv (s.allotOfIsland g) x.gov.bsel) }
  else s.modPkg (g - 36) fun x => { x with gov := f x.gov x.gov.rest (cv (s.allotOfPkg (g - 36)) x.gov.bsel) }

/-- Wind-downs on every gated island of allotment p. -/
def State.windDownAll (s : State) (p : Nat) : State :=
  match s.record p with
  | none => s
  | some r => forEach r.islands (forEach r.pkgs s fun s n => s.windDown (36 + n)) State.windDown

/-- Records a fence in the journal, from which the fence list comes (R324, R422): typ 0 core, 1 slice, 2 package. A unit
that a rebuilt journal has kept in its list keeps its count of retests. -/
def State.journalFence (s : State) (typ index cls : Nat) (step : Word) : State :=
  let n := ((s.boot.fences.find? fun f => f.1 = typ && f.2.1 = index).map fun f => f.2.2.2).getD 0
  { s with boot := s.boot.add (.fence typ index cls n s.boot.start step) }

/-- Fences the core of a site (R324): its wheel holds and its contexts become UNUSED. -/
def State.fenceCore (s : State) (site cls : Nat) : State :=
  let i := islandOf site
  if (s.core site).fenced then s
  else
    let step := match s.allotOfSite site with | some p => (s.spine p).step | none => 0
    let s1 := s.modCore site fun c => { (Core.parked c) with fenced := true, bound := c.bound, rel := c.rel }
    let s2 := s1.modIsland i fun x => { x with coreFence := setFld x.coreFence (posOf site) (posOf site) 1 }
    (s2.journalFence 0 site cls step).windDown i

/-- Fences a slice and with it its core (R324). -/
def State.fenceSlice (s : State) (site cls : Nat) : State :=
  let i := islandOf site
  let step := match s.allotOfSite site with | some p => (s.spine p).step | none => 0
  if (s.island i).sliceFence.getLsbD (posOf site) then s
  else
    let s1 := s.modIsland i fun x => { x with
      sliceFence := setFld x.sliceFence (posOf site) (posOf site) 1
      planFence := x.planFence.filter (· ≠ posOf site) }
    ((s1.journalFence 1 site cls step).fenceCore site cls).windDown i

/-! ### Quiesce (R337 step 1) -/

/-- A core stopped at instruction boundaries: tasks aborted without a record, reads discarded, queues flushed, tiles
empty, banks cut short at +0, barriers 0 (R56, R124); vector arithmetic already issued completes (R229). -/
def Core.quiesced (c : Core) : Core :=
  let c1 := c.vArith.foldl Core.deliver c
  let cut (b : Nat) : Bool := c1.ta.st = .replaying || c1.tb.st = .replaying || c1.loadPath.any fun o => o.kind.loads b
  { c1 with
    hold := true
    bank0 := if cut 0 then {} else c1.bank0
    bank1 := if cut 1 then {} else c1.bank1
    threads := c1.threads.map fun x => (x.1, if x.2.st = .active then { x.2 with st := .halted, waiting := none, sbs := 0 } else x.2)
    runs := c1.runs.map fun x => (x.1, { x.2 with live := false, pending := none })
    vArith := [], loadPath := [], bars := [], stall := false
    queues := c1.queues.map fun x => (x.1, { x.2 with reqs := [], ring := [] })
    ta := c1.ta.emptied, tb := c1.tb.emptied
    accOut := 0 }

/-- A channel stopped at its descriptor boundary (R282). -/
def Chan.stopped (c : Chan) : Chan :=
  match c.st with
  | .running => { c with st := .idle, ending := 4, stopReq := false, starter := none }
  | .ready => { c with st := .idle, stopReq := false, starter := none }
  | .idle => c

def State.quiesce (s : State) (p : Nat) : State :=
  match s.record p, (s.spine p).plan with
  | some r, some pl =>
    let s1 := forEach pl.sites s fun s x => (drainWrites s x p).modCore x Core.quiesced
    let s2 := forEach r.islands s1 fun s i => s.modIsland i fun x => { x with
      chans := x.chans.map fun c => (c.1, Chan.stopped c.2)
      readyOrder := []
      marks := []
      vetch := { x.vetch with
        captures := [], evolving := none, stage := .idle, phaseOn := false, pendingTiles := [], statSet := none } }
    let s3 := forEach r.pkgs s2 fun s n => s.modPkg n fun x => { x with
      pass := .none, waiting := true, changes := [], msg := none, todo := [] }
    { s3 with signals := s3.signals.filter fun g => s.allotOfSite g.dst ≠ some p }
  | _, _ => s

/-! ### Rebinding (R38–R40, R326) -/

/-- Gives every plan-relative number whose site is no longer good the lowest spare left (R38). Where one fault fences
several cores, they are served in ascending plan-relative number (DESIGN CHOICE, log entry 76). -/
def replaceBad (good : Nat → Bool) : List Nat → List Nat → Option (List Nat)
  | [], _ => some []
  | x :: t, spares =>
    if good x then (replaceBad good t spares).map (x :: ·)
    else match spares with
    | [] => none
    | y :: ys => (replaceBad good t ys).map (y :: ·)

/-- The plan with every tier-1 address of the rebound cores moved, those of block maps and frozen records too, since restored
data goes to the slices now bound (R326). -/
def Plan.rebound (pl : Plan) (sites : List Nat) : Plan :=
  { pl with
    sites := sites
    updates := pl.updates.map fun u => { u with
      valueAddr := u.valueAddr.rebase pl.sites sites, bufAddr := u.bufAddr.rebase pl.sites sites }
    works := pl.works.map fun w => { w with
      valueAddr := w.valueAddr.rebase pl.sites sites, maskAddr := w.maskAddr.rebase pl.sites sites }
    probes := pl.probes.map fun b => { b with
      valueAddr := b.valueAddr.rebase pl.sites sites, scaleAddr := b.scaleAddr.rebase pl.sites sites }
    layers := pl.layers.map fun x => (x.1, { x.2 with blockBase := x.2.blockBase.rebase pl.sites sites })
    ckpt := pl.ckpt.map fun ck => { ck with frozen := ck.frozen.map fun f => (f.1.rebase pl.sites sites, f.2) } }

/-- The plan on good sites: unchanged, with spares, or on a smaller layout (R38, R39), reported with its core counts and
first, the first replayed step, at which it takes effect (R42); a reject when none fits. -/
def rebind (s : State) (p : Nat) (pl : Plan) (first : Word) : Except Reject (Plan × State) :=
  let good (x : Nat) : Bool := s.siteGood x
  let pkgsOk := pl.packages.all s.pkgOk
  if pl.sites.all good && pkgsOk then .ok (pl, s)
  else
    let spares := (s.goodSites p).filter fun x => !pl.sites.contains x
    match if pkgsOk then replaceBad good pl.sites spares else none with
    | some sites =>
      let gone := pl.sites.filter fun x => !sites.contains x
      .ok (pl.rebound sites, forEach gone s fun s x => s.modCore x Core.parked)
    | none =>
      match chooseLayout s p pl.img false with
      | none => .error { reason := 6, layout := pl.layout, detail := (s.goodSites p).length }
      | some l =>
        let cores := match pl.img.layoutSec l with | some ls => ls.cores | none => 0
        let sites := (s.goodSites p).take cores
        let pl' := (mkPlan pl.img l (pl.loadSites.take cores) pl.loadSites).rebound sites
        let s1 := forEach pl.sites s fun s x => s.modCore x Core.parked
        .ok (pl', s1.postEvent p 3 (leBytes 2 pl.cores ++ leBytes 2 cores ++ leBytes 8 first.toNat))

/-! ### Cut slots (R466) -/

/-- The work record and layer of an update record's tile, if it is sparse. -/
def workOf (pl : Plan) (u : UpdateRec) : Option (WorkRec × LayerRec) :=
  match pl.works.find? fun w => w.valueAddr.addr pl.sites = u.valueAddr.addr pl.sites with
  | none => none
  | some w => (FMap.find w.layer pl.layers).map fun l => (w, l)

/-- Block-bit indices of a tile from block_base: λ from 0 to 8/N − 1 (R151). -/
def blockBits (w : WorkRec) (l : LayerRec) : List Nat :=
  let n := l.level
  if n = 0 || l.bcols = 0 then []
  else (List.range (8 / n)).map fun lam => (8 * (w.tile / l.bcols) / n + lam) * l.bcols + w.tile % l.bcols

/-- Reads a tile's block bits from the map of its layer (R151); a layer without a map has none. -/
def readBlock (p : Nat) (pl : Plan) (w : WorkRec) (l : LayerRec) (s : State) : Except ReadResult (List Bool) × State :=
  let base := l.blockBase.addr pl.sites
  if base = 0 then (.ok [], s) else readBits p ((blockBits w l).map fun k => (base + k / 8, k % 8)) s

/-- Writes bit k of a block map as the slice's bit-masked write does (R165): none at an address fault. -/
def State.setBlockBit (s : State) (p base k : Nat) (v : Bool) : Option State :=
  let b : BitVec 8 := BitVec.ofNat 8 (ofLe (s.peek p (base + k / 8) 1))
  s.store p (base + k / 8) [setFld b (k % 8) (k % 8) (b2n v)]

/-- Writes a tile's block bits: none at an address fault; a layer without a map has none. -/
def writeBlock (p : Nat) (pl : Plan) (w : WorkRec) (l : LayerRec) (bit : Nat → Bool) (s : State) : Option State :=
  let base := l.blockBase.addr pl.sites
  if base = 0 then some s
  else (toMap (blockBits w l)).foldl (fun (o : Option State) x => match o with
    | some s => s.setBlockBit p base x.2 (bit x.1)
    | none => none) (some s)

/-- The bytes of a tile copy: PM32 value plane, mask plane, block bits; and the lengths of its PM32 part and its mask.
Poison or a fault ends the copy (R312, R464). -/
def tileCopy (p : Nat) (pl : Plan) (u : UpdateRec) (s : State) : Except ReadResult (List Byte × Nat × Nat) × State :=
  let w := fmtWidth u.fmt
  match s.readCk p (u.valueAddr.addr pl.sites) (128 * w) .clean with
  | (.data v, s1) =>
    let pm := (List.range 32).flatMap fun g => pm32Store w (unpackBits w 32 (v.drop (4 * w * g)))
    (match workOf pl u with
    | some (wr, l) =>
      if l.level = 1 || l.level = 2 || l.level = 4 || l.level = 8 then
        let (rm, s2) := if l.level = 8 then (ReadResult.data [], s1)
          else s1.readCk p (wr.maskAddr.addr pl.sites) (1024 / l.level) .clean
        match rm with
        | .data m =>
          (match readBlock p pl wr l s2 with
          | (.ok bits, s3) =>
            let byte := (List.range bits.length).foldl (fun a i => if bits.getD i false then a + 2 ^ i else a) 0
            (.ok (pm ++ m ++ leBytes 1 byte, pm.length, m.length), s3)
          | (.error e, s3) => (.error e, s3))
        | e => (.error e, s2)
      else (.ok (pm ++ [0], pm.length, 0), s1)
    | none => (.ok (pm ++ [0], pm.length, 0), s1))
  | (e, s1) => (.error e, s1)

/-- Device address of a cut slot, of the base copy, of package n (R328). -/
def slotBase (pl : Plan) (ck : CkptSec) (n slot : Nat) : Nat :=
  lpBase n + ck.ingotOff + 2 * ck.undoLen + slot * cutSlotLen pl.sites pl.works pl.layers pl.updates n
def baseCopyBase (pl : Plan) (ck : CkptSec) (n : Nat) : Nat := slotBase pl ck n 2

/-- Update records of package n, with their index. -/
def updatesOf (pl : Plan) (n : Nat) : List (Nat × UpdateRec) :=
  (toMap pl.updates).filter fun x => x.2.planisher = n

/-- The 128-byte cut header (R332 Table 4). -/
def cutHeader (pl : Plan) (c : Cut) (tiles : Nat) (crcData : Word32) : List Byte :=
  let h := leBytes 4 0x54554349 ++ leBytes 4 0 ++ leBytes 8 c.step.toNat ++ leBytes 8 c.epoch ++
    leBytes 8 pl.img.planId.toNat ++ leBytes 1 c.layout ++ leBytes 1 (wrap 8 c.ls) ++ leBytes 2 c.clean ++
    leBytes 4 0 ++ (c.fb.flatMap fun w => leBytes 8 w.toNat) ++ leBytes 8 (wrap 64 c.window) ++
    leBytes 8 c.ringPos ++ leBytes 4 tiles ++ leBytes 4 crcData.toNat ++ List.replicate 28 0
  h ++ leBytes 4 (crc32c h).toNat

/-- What ends the taking of a cut early: a read of it, or a write that faults (R312, R341). -/
inductive CopyEnd where
  | read (r : ReadResult)
  | write
  deriving DecidableEq, Repr

/-- A write of a cut: done, or a fault. -/
def copied (r : Except Unit Unit × State) : Except CopyEnd Unit × State := (r.1.mapError fun _ => .write, r.2)

/-- Writes the slot of package n: tile copies, directory, header last (R332, R466). -/
def writeSlot (p : Nat) (pl : Plan) (ck : CkptSec) (c : Cut) (n : Nat) (s : State) : Except CopyEnd Unit × State :=
  let us := updatesOf pl n
  let base := slotBase pl ck n c.slot
  let first := roundUp (128 + 32 * us.length) 64
  let r := us.foldl (fun (acc : Except CopyEnd (Nat × List Byte × List Byte) × State) u =>
    match acc with
    | (.error e, s) => (.error e, s)
    | (.ok (off, dir, crcs), s) => match tileCopy p pl u.2 s with
      | (.error e, s1) => (.error (.read e), s1)
      | (.ok (bytes, pmLen, mLen), s1) =>
        let crc := crc32c bytes
        let ent := leBytes 4 u.1 ++ leBytes 4 pmLen ++ leBytes 4 mLen ++ leBytes 4 crc.toNat ++ leBytes 8 off ++
          leBytes 8 0
        (match putOk p (base + off) bytes s1 with
        | (.ok _, s2) => (.ok (roundUp (off + bytes.length) 64, dir ++ ent, crcs ++ leBytes 4 crc.toNat), s2)
        | (.error _, s2) => (.error .write, s2)))
    (.ok (first, [], []), s)
  match r with
  | (.error e, s1) => (.error e, s1)
  | (.ok (_, dir, crcs), s1) =>
    copied (thenOk (putOk p (base + 128) dir s1) (putOk p base (cutHeader pl c us.length (crc32c crcs))))

/-- The frozen records with the address of their base copy (R328, R330): package by package in record order. -/
def frozenAddrs (pl : Plan) (ck : CkptSec) : List (PAddr × Nat × Nat) :=
  (ck.frozen.foldl (fun (acc : List (PAddr × Nat × Nat) × FMap Nat) f =>
    let off := FMap.getD acc.2 f.2.2 0
    (acc.1 ++ [(f.1, f.2.1, baseCopyBase pl ck f.2.2 + off)], FMap.insert f.2.2 (off + f.2.1) acc.2)) ([], [])).1

/-- Copies the frozen records into the base copies, once (R330). -/
def writeBase (p : Nat) (pl : Plan) (ck : CkptSec) (s : State) : Except CopyEnd Unit × State :=
  eachOk (fun f s => match s.readCk p (f.1.addr pl.sites) f.2.1 .clean with
    | (.data l, s1) => copied (putOk p f.2.2 l s1)
    | (e, s1) => (.error (.read e), s1)) (frozenAddrs pl ck) s

/-- Writes a tile copy back: value plane, mask plane of ml bytes, block bits (R466); none at an address fault. -/
def restoreTile (p : Nat) (pl : Plan) (u : UpdateRec) (bytes : List Byte) (pm ml : Nat) (s : State) : Option State :=
  let w := fmtWidth u.fmt
  match s.store p (u.valueAddr.addr pl.sites) (packBits w (pm32LoadN w 32 bytes)), workOf pl u with
  | some s1, some (wr, l) =>
    if ml = 0 && l.level ≠ 8 then some s1
    else match if ml = 0 then some s1 else s1.store p (wr.maskAddr.addr pl.sites) (slice bytes pm ml) with
      | some s2 => writeBlock p pl wr l (fun i => (ofLe (slice bytes (pm + ml) 1)).testBit i) s2
      | none => none
  | o, _ => o

/-- What ends a restore early: a check that fails, with its tile (R340), poison (R312) or a write that faults (R341). -/
inductive RestoreEnd where
  | check (index : Nat)
  | poison
  | fault
  deriving DecidableEq, Repr

/-- A write of a restore: done, or a fault. -/
def restored (o : Option State) (s : State) : Except RestoreEnd Unit × State :=
  match o with
  | some s1 => (.ok (), s1)
  | none => (.error .fault, s)

/-- Restores the tiles of package n from its slot (R337 step 4, R466). -/
def restoreSlot (p : Nat) (pl : Plan) (ck : CkptSec) (slot n : Nat) (s : State) : Except RestoreEnd Unit × State :=
  let us := updatesOf pl n
  let base := slotBase pl ck n slot
  match s.readDev base (128 + 32 * us.length) with
  | (.data head, s1) =>
    let hdr := head.take 128
    let dir := head.drop 128
    let crcs := (List.range us.length).flatMap fun k => slice dir (32 * k + 12) 4
    if crc32c (hdr.take 124) ≠ BitVec.ofNat 32 (ofLe (slice hdr 124 4)) ||
       crc32c crcs ≠ BitVec.ofNat 32 (ofLe (slice hdr 0x5C 4)) then (.error (.check 0xFFFFFFFF), s1)
    else eachOk (fun x s =>
      let ent := slice dir (32 * x.1) 32
      let pm := ofLe (slice ent 4 4)
      let ml := ofLe (slice ent 8 4)
      match s.readDev (base + ofLe (slice ent 16 8)) (pm + ml + 1) with
      | (.data bytes, s2) =>
        if crc32c bytes ≠ BitVec.ofNat 32 (ofLe (slice ent 12 4)) then (.error (.check x.2.1), s2)
        else restored (restoreTile p pl x.2.2 bytes pm ml s2) s2
      | (_, s2) => (.error .poison, s2)) (toMap us) s1
  | (_, s1) => (.error .poison, s1)

/-- Writes the base copy back to the frozen records (R337 step 4). -/
def restoreBase (p : Nat) (pl : Plan) (ck : CkptSec) (s : State) : Except RestoreEnd Unit × State :=
  eachOk (fun f s => match s.readDev f.2.2 f.2.1 with
    | (.data l, s1) => restored (s1.store p (f.1.addr pl.sites) l) s1
    | (_, s1) => (.error .poison, s1)) (frozenAddrs pl ck) s

/-- Step 4 of R337: DATA sections of tier 1, tile copies, base copies, then buffers at +0. -/
def restoreTier1 (p : Nat) (r : AllotRec) (pl : Plan) (ck : CkptSec) (slot : Nat) (s : State) :
    Except RestoreEnd Unit × State :=
  let wrote (r : Except Unit Unit × State) : Except RestoreEnd Unit × State := (r.1.mapError fun _ => .fault, r.2)
  thenOk (wrote (writeData p pl.img pl.layout (pl.loadSites.take pl.cores) pl.sites true s)) fun s =>
  thenOk (eachOk (restoreSlot p pl ck slot) r.pkgs s) fun s =>
  thenOk (restoreBase p pl ck s) fun s => wrote (zeroBuffers p pl s)

/-! ### Rollback (R331, R337 step 3) -/

/-- The lines of a page by number: those no byte of which is excluded, and those in part excluded (R331). -/
def Excluded.lines (ex : Excluded) (page : Nat) : List Nat × List Nat :=
  let ls := (List.range 64).map (64 * page + ·)
  let out (k : Nat) : List Bool := (List.range 64).map fun j => ex.byte (64 * k + j)
  (ls.filter fun k => !(out k).any id, ls.filter fun k => (out k).any id && !(out k).all id)

/-- Restores one page, except the bytes of excluded groups (R331): its lines are rewritten, and those that were copied
poisoned are poisoned again (R319, R341). A line in part excluded keeps its poison. -/
def restorePage (ex : Excluded) (s : State) (pg : Nat × List Host.Cell × List Nat) : State :=
  let lo := pg.1 * 4096
  let ls := ex.lines pg.1
  let s0 := s.meetWhere fun u => ls.2.contains (u / 64)
  let keep := s0.mem.filter fun c => c.1 < lo || lo + 4096 ≤ c.1 || ex.byte c.1
  let m := (pg.2.1.filter fun c => !ex.byte c.1).foldl (fun m c => Memory.writeByte m c.1 c.2) keep
  let s1 := forEach ls.1 { s0 with mem := m } fun s k => s.wrote (64 * k) 64
  let s2 := forEach ls.2 s1 fun s k => s.inject (64 * k) 64
  forEach (pg.2.2.filter fun k => (ls.1 ++ ls.2).contains k) s2 fun s k => s.poison (64 * k)

/-- Applies the undo slots newest epoch first, pages in reverse order of copying. -/
def rollback (s : State) (p : Nat) (r : AllotRec) (pl : Plan) (ck : CkptSec) : State :=
  let sp := s.spine p
  let ex := excludedOf r pl ck sp
  let pages := sp.ingot.undo.pages.reverse ++ (if sp.ingot.taking.isSome then sp.ingot.undoPrev.pages.reverse else [])
  pages.foldl (restorePage ex) s

/-! ### Stops (R340, R346, R350, R354) -/

/-- The last consistent cut that an allotment can be put back to: none before the first one, after its loss (R333) and
while a package that held undo pages is fenced (R339). -/
def State.haltCut (s : State) (p : Nat) : Option (AllotRec × Plan × CkptSec × Cut) :=
  let sp := s.spine p
  match s.record p, sp.plan, sp.ingot.cut with
  | some r, some pl, some c =>
    match pl.ckpt with
    | some ck => if sp.ingot.lost || sp.ingot.lostPrev || r.pkgs.any (fun n => !s.pkgOk n) then none else some (r, pl, ck, c)
    | none => none
  | _, _, _ => none

/-- Puts a quiesced allotment back to its last cut, as steps 3 to 5 of R337 do (R350). Tiles from the first one on whose
copy fails its check stay as they are in its package: RESUME then stops (R340). -/
def State.haltAtCut (s : State) (p : Nat) : State :=
  match s.haltCut p with
  | none => s
  | some (r, pl, ck, c) =>
    let s1 := (writeData p pl.img pl.layout (pl.loadSites.take pl.cores) pl.sites true (rollback s p r pl ck)).2
    let s2 := forEach r.pkgs s1 fun s n => (restoreSlot p pl ck c.slot n s).2
    (zeroBuffers p pl (restoreBase p pl ck s2).2).2.modSpine p fun sp => { sp with
      step := c.step + 1, ls := BitVec.ofInt 8 c.ls, clean := BitVec.ofNat 16 c.clean
      ingot := { sp.ingot with undo := {}, undoPrev := {} } }

/-- Stops allotment p at its last cut with a reason, recorded in the manner of R70. -/
def State.stopAllot (s : State) (p reason detail : Nat) (core : Nat := 0xFFFF) : State :=
  let sp := s.spine p
  match sp.plan with
  | none => s
  | some pl =>
    let s1 := ((s.quiesce p).windDownAll p).haltAtCut p
    let s2 := s1.modSpine p fun x => { x with
      st := .stopped, stopReason := reason, stopDetail := detail, acc := {}, nf := 0, reports := [], marksIn := [],
      prdReports := []
      ingot := { x.ingot with
        cutting := false, forcedPending := false, taking := none, replaying := false, exporting := false
        fenceReady := []
        expStatus := if x.ingot.exporting then 3 else x.ingot.expStatus } }
    let s3 := s2.modPort p fun po => { po with stop := BitVec.ofNat 8 reason }
    s3.recordReject p pl.img.planId
      { reason, layout := pl.layout, core, site := if core = 0xFFFF then 0xFFFF else pl.sites.getD core 0xFFFF, detail }

/-- A stop that applies only to a LOADED allotment. -/
def State.stopLoaded (s : State) (p reason detail : Nat) : State :=
  if (s.spine p).st = .loaded then s.stopAllot p reason detail else s

/-! ### Replay (R337) -/

/-- Step 5: cores, islands and Planishers as R69 leaves them, descriptors re-submitted in TDESC order (R257). At a rebinding
MX_CFG takes the value of a load (R434). -/
def resetCores (s : State) (p : Nat) (pl : Plan) (c : Cut) (rebound : Bool) : Except Reject Unit × State :=
  let s0 := (toMap pl.sites).foldl (fun s x => s.modCore x.2 fun old =>
    let k := buildCore old pl.img pl.layout x.1 pl.sites false
    if rebound then { k with mxCfg := 0x43 } else k) s
  let s1 := forEach (((s.record p).map fun r => r.islands.flatMap islandSites).getD []) s0 fun s x => s.modCore x fun k =>
    k.hears (lscaleWord c.ls c.step.toNat) c.step (toMap c.fb)
  let reqs := (pl.img.allOf 5 pl.layout).flatMap fun b => match b with | .tdesc q => q | _ => []
  eachOk (fun q s => match submit s p pl.sites q with
    | .ok s' => (.ok (), s')
    | .error code => (.error {
        reason := 11, layout := pl.layout, core := q.core.toNat
        site := pl.sites.getD q.core.toNat 0xFFFF, detail := code + q.slot.toNat * 256 + q.core.toNat * 65536 }, s))
    reqs s1

/-- A write of Ingot's own ended with a fault: class 0x12 with its work, and the allotment stops with reason 0x001D
(R341, R464). -/
def State.ingotFault (s : State) (p work : Nat) : State :=
  (s.reportFrom 0x12 58 0xFFFF (some p) (3 + 16 + 32 * work)).stopAllot p 0x1D work

/-- The loader-owned registers of Planishers and spine at a rebinding (R434). -/
def reboundRegs (p : Nat) (r : AllotRec) (pl : Plan) (s : State) : State :=
  let g := pl.img.groupSec pl.layout
  let s1 := match g with
    | some g => forEach r.pkgs s fun s n => s.modPkg n fun x => x.loaderRegs n g
    | none => s
  s1.modSpine p fun sp => sp.loaderRegs g pl.ckpt

/-- Steps 2 to 7 of R337 from the last consistent cut c; a stop where a check fails. The Bool says that poison met on the
way abandons the replay (R312). -/
def replayTry (s : State) (p : Nat) (r : AllotRec) (pl : Plan) (ck : CkptSec) (c : Cut) : State × Bool :=
  match rebind s p pl (c.step + 1) with
  | .error e => (s.stopAllot p e.reason e.detail, false)
  | .ok (pl1, s1) =>
    let s2 := rollback (s1.modSpine p fun sp => { sp with plan := some pl1 }) p r pl1 ck
    match restoreTier1 p r pl1 ck c.slot s2 with
    | (.error (.check idx), s3) => (s3.stopAllot p 0x12 idx, false)
    | (.error .fault, s3) => (s3.ingotFault p 3, false)
    | (.error .poison, s3) => (s3, true)
    | (.ok _, s5) =>
      let rebound := decide (pl1.sites ≠ pl.sites ∨ pl1.layout ≠ pl.layout)
      match resetCores s5 p pl1 c rebound with
      | (.error e, s6) => (s6.stopAllot p e.reason e.detail e.core, false)
      | (.ok _, s6) =>
        let s6 := if rebound then reboundRegs p r pl1 s6 else s6
        let s7 := initIslands r pl1 false (if pl1.layout = pl.layout then s6 else initChannels r pl1 s6)
        let s8 := s7.modSpine p fun sp =>
          let ig := sp.ingot
          { sp with
            st := .loaded, step := c.step + 1, ls := BitVec.ofInt 8 c.ls, clean := BitVec.ofNat 16 c.clean
            acc := {}, nf := 0, reports := [], marksIn := [], endMarks := [], prdReports := []
            lastVerdict := some c.step, boundaryOf := some c.step, verdicts := []
            updDone := [], updEnded := false, maskDone := [], trSums := [], trDone := true
            ingot := { ig with
              replays := min (ig.replays + 1) 65535, replaying := true, cutting := false
              taking := none, lost := false, lostPrev := false
              firstStep := c.step + 1, fenceReady := []
              undo := {}, undoPrev := {}, fromRing := ig.ring.filter fun x => decide (c.step < x.step) }
            ingest := { sp.ingest with
              step := c.step + 1, phaseOpen := false, taken := 0, perClass := [], rejected := 0
              window := c.window, held := false, formed := false, boundary := some c.step, replaying := true, phases := [],
              origins := [] } }
        let s9 := forEach pl1.sites s8 fun s x => s.modCore x fun k => { k with hold := false }
        (sendMark r (.replayStart (c.step + 1)) s9, false)

/-- Makes the planned fences of an allotment's islands (R325, R341). -/
def State.fencePlanned (s : State) (r : AllotRec) : State :=
  forEach r.islands s fun s i => forEach (s.island i).planFence s fun s k => s.fenceSlice (16 * i + k) 0x01

/-- The first step that has not reached its boundary: the step that a fault abandons (R36, R338). -/
def Spine.openStep (sp : Spine) : Word := match sp.boundaryOf with | some b => b + 1 | none => 0

/-- Counts an abandonment and replays from the last cut, or stops (R328, R333, R338); a replay that meets poison is
abandoned in turn. The rounds end within replay_max, which is at most 15. -/
def State.replayRound : Nat → Nat → State → State
  | 0, _, s => s
  | f + 1, p, s =>
    let sp := s.spine p
    let ig := sp.ingot
    match s.record p, sp.plan with
    | some r, some pl =>
      match pl.ckpt, ig.cut with
      | some ck, some c =>
        if ig.lost || ig.lostPrev then s.stopAllot p 0x10 ig.epoch
        else
          let failed := ig.faultStep.isSome
          let run := if failed then min (ig.run + 1) 31 else ig.run
          let s1 := s.modSpine p fun x => { x with ingot := { x.ingot with
            run := run, faultStep := if failed then ig.faultStep else some sp.openStep } }
          if fld ig.cfg 3 0 < run then s1.stopAllot p 0x11 run
          else match replayTry s1 p r pl ck c with
            | (t, true) => State.replayRound f p t
            | (t, false) => t
      | _, _ => s.stopAllot p 0x10 ig.epoch
    | _, _ => s

/-- The rounds that replay_max allows, with the first and the one that stops. -/
def replayFuel : Nat := 18

/-- Abandons the current step of allotment p (R36): quiesce, wind-down, then replay from the last cut or stop. -/
def State.abandonStep (s : State) (p : Nat) : State :=
  match (s.spine p).st, s.record p with
  | .loaded, some r => State.replayRound replayFuel p (((s.quiesce p).windDownAll p).fencePlanned r)
  | _, _ => s

/-- The replay of a RESUME or of a planned fence, which no fault calls for: it does not count as a failed one. -/
def State.replayFresh (s : State) (p : Nat) (r : AllotRec) (pl : Plan) (ck : CkptSec) (c : Cut) : State :=
  let s1 := s.modSpine p fun x => { x with ingot := { x.ingot with faultStep := x.ingot.faultStep.or (some x.openStep) } }
  match replayTry s1 p r pl ck c with
  | (t, true) => State.replayRound replayFuel p t
  | (t, false) => t

/-- RESUME (R354): the replay of R337 for a STOPPED allotment. -/
def State.resumeReplay (s : State) (p : Nat) : State :=
  match s.record p, (s.spine p).plan with
  | some r, some pl =>
    match pl.ckpt, (s.spine p).ingot.cut with
    | some ck, some c => if (s.spine p).ingot.lost || (s.spine p).ingot.lostPrev then s.stopAllot p 0x10 (s.spine p).ingot.epoch
        else (s.quiesce p).replayFresh p r pl ck c
    | _, _ => s.stopAllot p 0x10 (s.spine p).ingot.epoch
  | _, _ => s

/-- Unloads the plan of allotment p (R346, R350): every core on hold and every context UNUSED. -/
def State.unloadPlan (s : State) (p : Nat) : State :=
  match s.record p with
  | none => s
  | some r =>
    let s1 := forEach ((List.range 576).filter fun x => r.hasIsland (islandOf x)) s fun s x =>
      s.modCore x fun c => if c.bound then c.parked else { c with tds := [] }
    let s2 := s1.modSpine p fun sp => { sp with st := .idle, plan := none, kept := sp.plan.or sp.kept }
    if (s.spine p).plan.isSome then s2.windDownAll p else s2

/-- Fences a package (R324, R339, R40): an allotment with a plan that holds it stops with reason 0x0013, or, STOPPED
already, has that reason from then on, since it cannot roll back. -/
def State.fencePackage (s : State) (n cls : Nat) : State :=
  if (s.pkg n).fenced then s
  else
    let a := s.allotOfPkg n
    let step := match a with | some p => (s.spine p).step | none => 0
    let s1 := (s.modPkg n fun x => { x with fenced := true }).journalFence 2 n cls step
    match a with
    | some p => if (s.spine p).st = .loaded || (s.spine p).st = .stopped then s1.stopAllot p 0x13 n else s1
    | none => s1

/-- Fences a core of an allotment: the step is abandoned and a bound core's number rebound (R36, R38). -/
def State.fenceCoreStep (s : State) (site cls : Nat) : State :=
  let s1 := s.fenceCore site cls
  match s.allotOfSite site with
  | some p => s1.abandonStep p
  | none => s1

def State.fenceSliceStep (s : State) (site cls : Nat) : State :=
  let s1 := s.fenceSlice site cls
  match s.allotOfSite site with
  | some p => s1.abandonStep p
  | none => s1

/-- The class 0x12 report of a unit's access that ended with an address fault (R311, R464). -/
def State.reportUnit (s : State) (p unit : Nat) (write : Bool) (index island site : Nat) : State :=
  s.reportFrom 0x12 island site (some p) (unit + 16 * b2n write + 256 * index)

/-- A unit's access that ended with an address fault: reported, and the step is abandoned (R169, R224). -/
def State.unitFault (s : State) (p unit : Nat) (write : Bool) (index island site : Nat) : State :=
  (s.reportUnit p unit write index island site).abandonStep p

end Sys2Proof.Machine
end

