-- ==== Sys2Proof/Machine/Outcome.lean ====
section
/-! DEFINITION. How the meaning of a command ends: the fences that persistent errors call for are made (R322), and a
unit outside the numbering is a fault. -/

namespace Sys2Proof.Machine

open Host (Outcome)

/-- Makes the fences that are due. -/
def State.makeFences (s : State) : State :=
  s.fenceDue.foldl (fun s f => if f.1 = 1 then s.fenceSliceStep f.2.1 f.2.2 else s.fencePackage f.2.1 f.2.2)
    { s with fenceDue := [] }

/-- The fences that are due, made with no further replay. -/
def State.markFences (s : State) : State :=
  { s.fenceDue.foldl (fun s f => if f.1 = 1 then s.fenceSlice f.2.1 f.2.2 else s.fencePackage f.2.1 f.2.2) s with
    fenceDue := [] }

/-- Rounds of fences: the reads of a quiesce can find a further persistent error. The last round leaves none. -/
def fenceRounds : Nat → State → State
  | 0, s => s.markFences
  | n + 1, s => if s.fenceDue = [] then s else fenceRounds n s.makeFences

/-- Makes the fences that are due, and those that making them calls for. Injected errors bound the rounds. -/
def State.settleFences (s : State) : State := fenceRounds (s.injected.length + 1) s

/-- A command on a unit that exists, of a module that is on; a unit outside the numbering is a fault, and nothing
happens in a module that is off. -/
def State.onUnit (s : State) (ok : Bool) (f : State → State) : Outcome State Fault Refusal :=
  if ok then .next (if s.supply.on then (f s).settleFences else s) else .fault .noSuchUnit

def State.onSite (s : State) (site : Nat) (f : State → State) : Outcome State Fault Refusal :=
  s.onUnit (site < 576) f
def State.onIsland (s : State) (i : Nat) (f : State → State) : Outcome State Fault Refusal := s.onUnit (i < 36) f
def State.onPkg (s : State) (n : Nat) (f : State → State) : Outcome State Fault Refusal := s.onUnit (n < 12) f
def State.onAllot (s : State) (p : Nat) (f : State → State) : Outcome State Fault Refusal := s.onUnit (p < 8) f

end Sys2Proof.Machine
end

