-- ==== Sys2Proof/Machine/Tasks.lean ====
section
/-! DEFINITION. Tasks (R45, R53–R58), signals (R59–R62), the wheel's advance (R49, R50), and phase accounting (R64). -/

namespace Sys2Proof.Machine

/-! ### The wheel (R48–R50) -/

/-- advance() of R49. -/
def Core.advance (c : Core) : Core :=
  let start (k : Nat) : Nat := fld (FMap.getD c.segs k 0) 11 0
  let len (k : Nat) : Nat := fld (FMap.getD c.segs k 0) 23 12 + 1
  let (cur, seg) :=
    if c.segNext < 8 then (start c.segNext, c.segNext)
    else if start c.segment + len c.segment ≤ c.cursor.toNat + 1 then (start c.segment, c.segment)
    else (c.cursor.toNat + 1, c.segment)
  { c with cursor := BitVec.ofNat 12 cur, segment := seg, segNext := 8, waited := 0, stall := false,
           left := fld (FMap.getD c.wheel cur 0) 7 4 + 1 }

/-- The context the wheel's current entry names. -/
def Core.wheelCtx (c : Core) : Nat := fld (FMap.getD c.wheel c.cursor.toNat 0) 15 8

/-- The wheel of a site offers slots: hold is 0 and the island's gate is open (R49, R401). -/
def State.wheelRuns (s : State) (site : Nat) : Bool :=
  !(s.core site).hold && !(s.island (islandOf site)).gov.gateClosed && !(s.island (islandOf site)).clockLost

/-! ### Phase accounting (R64) -/

/-- A task of a phase starts at island count now. -/
def Core.phaseStart (c : Core) (step : Word) (phase now : Nat) : Core :=
  if c.phases.any fun a => a.step = step && a.phase = phase then c
  else { c with phases := c.phases ++ [{ step := step, phase := phase, start := now, stop := now }] }

def Core.modPhase (c : Core) (step : Word) (phase : Nat) (f : PhaseAcc → PhaseAcc) : Core :=
  { c with phases := c.phases.map fun a => if a.step = step && a.phase = phase then f a else a }

/-- A task of a phase completed or aborted at island count now. -/
def Core.phaseEnd (c : Core) (step : Word) (phase now : Nat) : Core :=
  c.modPhase step phase fun a => { a with stop := now }

/-- Records the operating point of a site's island at the end of a phase (R64). -/
def State.stampPhase (s : State) (site : Nat) (step : Word) (phase : Nat) : State :=
  let x := s.island (islandOf site)
  s.modCore site fun c => c.modPhase step phase fun a =>
    { a with mhz := clockMhz x.step, temp := x.temp / 100, pst := s.pstate (islandOf site), stale := x.calStale }

/-! ### Signals (R60–R62) -/

/-- Numbers a sender: threads, task completions, DMA channels and the ingest of an allotment (R61). -/
def srcThread (site ctx : Nat) : Nat := site * 1024 + ctx
def srcTask (site task : Nat) : Nat := site * 1024 + 256 + task
def srcChan (island ch : Nat) : Nat := 1000000 + island * 32 + ch
def srcIngest (p : Nat) : Nat := 2000000 + p

def State.sendSignal (s : State) (g : Signal) : State := { s with signals := s.signals ++ [g] }

/-- A plan error (R60, R62, R201): class 0x0A, and the allotment abandons its step. -/
def State.planError (s : State) (p kind slot core island site : Nat) : State :=
  (s.reportFrom 0x0A island site (some p) (kind + slot * 16 + core * 1024)).abandonStep p

/-- A signal arrives at its slot (R60, R62). -/
def State.arrive (s : State) (g : Signal) : State :=
  match s.allotOfSite g.dst with
  | none => s
  | some p =>
    let c := s.core g.dst
    let x := FMap.getD c.slots g.slot {}
    let put (v : Slot) (s : State) : State := s.modCore g.dst fun c => { c with slots := FMap.insert g.slot v c.slots }
    if x.count ≠ 0 && x.step ≠ g.step then s.planError p 2 g.slot c.rel (islandOf g.dst) g.dst
    else
      let step := if x.count = 0 then g.step else x.step
      if 65535 < x.count + g.n then
        (put { count := 65535, step := step } s).planError p 1 g.slot c.rel (islandOf g.dst) g.dst
      else put { count := x.count + g.n, step := step } s

/-! ### Task abort (R56–R58) -/

/-- A queue without the requests and entries of a task: entries it holds leave the ring (R56). -/
def Queue.flushTask (q : Queue) (task : Nat) : Queue :=
  { q with
    reqs := q.reqs.filter fun r => r.task ≠ task
    ring := dropReleased (q.ring.map fun (x : QEntry) =>
      if x.task = task then { x with st := .released, flushed := true } else x) }

/-- Whether a tile is a task's: the one whose drain it waits for or makes, else the last one that loaded or accumulated
into it (DESIGN CHOICE, log entry 76). -/
def Tile.heldBy (t : Tile) (task : Nat) : Bool :=
  match t.drain with
  | some d => d.task = task
  | none => t.st ≠ .empty && t.task = task

/-- The state of a core after a task's abort, apart from TASK_FLT and retries (R56); a load or a replay
that is cut short leaves its bank at +0 (R124). -/
def Core.abortTask (c : Core) (task : Nat) (now : Nat) : Core :=
  let e := c.task task
  let ctxs := teContexts e
  let gone := (c.inflight.filter fun o => o.task = task && !o.write).map fun o => (o.ctx, o.sb)
  let goneLoads := (c.loadPath.filter fun o => o.task = task).map fun o => (o.ctx, o.sb)
  let goneReqs := c.queues.flatMap fun q => (q.2.reqs.filter fun r => r.task = task).map fun r => (r.ctx, r.sb)
  let goneDrains := [c.ta, c.tb].filterMap fun t =>
    if t.heldBy task then t.drain.map fun d => (d.ctx, d.sb) else none
  let loadsBank (b : Nat) : Bool := c.loadPath.any fun o => o.task = task && o.kind.loads b
  let replays := [c.ta, c.tb].any fun t => t.heldBy task && t.st = .replaying
  let empty (t : Tile) : Tile := if t.heldBy task then t.emptied else t
  let c1 := (gone ++ goneLoads ++ goneReqs ++ goneDrains).foldl (fun c x =>
    c.setThread x.1 ((c.thread x.1).setSb x.2 false)) c
  let c2 := ctxs.foldl (fun c k => c.setThread k { c.thread k with st := .halted, waiting := none }) c1
  let run := c2.run task
  let c3 := { c2 with
    inflight := c2.inflight.filter fun o => o.task ≠ task || o.write
    bank0 := if loadsBank 0 || replays then {} else c2.bank0
    bank1 := if loadsBank 1 || replays then {} else c2.bank1
    queues := c2.queues.map fun (q : Nat × Queue) => (q.1, q.2.flushTask task)
    bars := c2.bars.map fun (b : Nat × Barrier) => (b.1, if b.2.task = task && b.2.count ≠ 0 then {} else b.2)
    ta := empty c2.ta
    tb := empty c2.tb }
  ((c3.setPath (c2.loadPath.filter fun o => o.task ≠ task)).setRun task { run with live := false }).phaseEnd run.step (tePhase e) now

/-- A channel whose starter's task aborts (R56, R282): a ready one leaves the order; a running one stops at its boundary
and no longer reaches the scoreboard (sb 8). -/
def Chan.stopFor (c : Chan) (site task : Nat) : Chan :=
  match c.starter with
  | some g =>
    if g.site = site && g.task = task then
      (match c.st with
        | .ready => Chan.stopped c
        | _ => { c with stopReq := true, starter := some { g with sb := 8 } })
    else c
  | none => c

/-- Channels a task started stop at their next descriptor boundary (R56, R282). -/
def State.stopChannelsOf (s : State) (site task : Nat) : State :=
  s.modIsland (islandOf site) fun x =>
    let chans := x.chans.map fun (ch : Nat × Chan) => (ch.1, ch.2.stopFor site task)
    let gov := match x.gov.ramp with
      | some r => (match r.owner with
        | some (st, ctx, _) => if st = site && (teContexts ((s.core site).task task)).contains ctx then
            { x.gov with ramp := some { r with owner := none } } else x.gov
        | none => x.gov)
      | none => x.gov
    { x with
      chans := chans
      gov := gov
      readyOrder := x.readyOrder.filter fun k => (FMap.getD chans k {}).st = .ready }

/-- TASK_FLT after an abort (R57 Table 7). -/
def fltRecord (w : Word) (cause task ctx pc retries : Nat) : Word :=
  if bit w 0 then setFld w 7 4 (min (fld w 7 4 + 1) 15)
  else BitVec.ofNat 64 (cause * 2 ^ 56 + task * 2 ^ 43 + ctx * 2 ^ 32 + pc * 2 ^ 16 + retries * 4 + 1)

/-- Aborts a task with a cause, recorded at a context and program counter and reported (R56, R57), and says whether it
restarts; else the step is to be abandoned (R58). -/
def State.noteAbort (s : State) (p site task cause ctx pc : Nat) : State × Bool :=
    let c := s.core site
    let e := c.task task
    let run := c.run task
    let now := (s.islCnt (islandOf site)).toNat
    let detail := cause + task * 16 + ctx * 512 + pc * 2 ^ 17 + b2n (bit c.taskFlt 0) * 2 ^ 31
    let c1 := { c.abortTask task now with taskFlt := fltRecord c.taskFlt cause task ctx pc run.retries }
    let retry := cause ≠ 0x0A && teIdem e && run.retries < fld e 18 17
    let run1 := c1.run task
    let c2 := c1.setRun task (
      if cause = 0x0A then { run1 with pending := none, restart := none }
      else if retry then { run1 with restart := some run.step, retries := run.retries + 1 }
      else run1)
    ((((s.setCore site c2).stampPhase site run.step (tePhase e)).stopChannelsOf site task).reportFrom 0x07
      (islandOf site) site (some p) detail, retry)

/-- Aborts a task with a cause (R56–R58). -/
def State.abortTask (s : State) (site task cause ctx pc : Nat) : State :=
  match s.allotOfSite site with
  | none => s
  | some p =>
    let r := s.noteAbort p site task cause ctx pc
    if r.2 then r.1 else r.1.abandonStep p

/-- Aborts the task of a context at its program counter. -/
def State.abortCtx (s : State) (site ctx cause : Nat) : State :=
  match (s.core site).taskOf ctx with
  | none => s
  | some task => s.abortTask site task cause ctx ((s.core site).thread ctx).pc.toNat

/-! ### Firing, starting and completing (R45, R54, R55) -/

/-- A firing of a task is pending, or its restart is: another is an overrun (R54). -/
def Core.fired (c : Core) (task : Nat) : Bool := (c.run task).pending.isSome || (c.run task).restart.isSome

/-- The context and program counter at which an overrun is recorded (R54). -/
def Core.overrunAt (c : Core) (task : Nat) : Nat × Nat :=
  let e := c.task task
  match (teContexts e).find? fun k => (c.thread k).st = .active with
  | some k => (k, (c.thread k).pc.toNat)
  | none => (teFirst e, teEntryPc e)

/-- A trigger of a task fires with a step number (R54); a second pending firing is an overrun. -/
def State.fire (s : State) (site task : Nat) (step : Word) : State :=
  let c := s.core site
  if c.fired task then s.abortTask site task 0x0A (c.overrunAt task).1 (c.overrunAt task).2
  else s.setCore site (c.setRun task { c.run task with pending := some step })

/-- The context values of R45. -/
def startThread (e : BitVec 128) (step : Word) (rel k : Nat) : Thread :=
  { st := .active
    pc := BitVec.ofNat 14 (teEntryPc e)
    regs := [(1, BitVec.ofNat 64 (teArg e)), (2, step), (3, BitVec.ofNat 64 k), (4, BitVec.ofNat 64 rel)] }

/-- A scoreboard entry of one of the contexts of a starting task: none is left to an operation of an earlier start. -/
def lostSb (ctxs : List Nat) (ctx sb : Nat) : Nat := if ctxs.contains ctx then 8 else sb

/-- The drain of a tile, of a context that starts again. -/
def Tile.lostDrain (ctxs : List Nat) (t : Tile) : Tile :=
  { t with drain := t.drain.map fun d => { d with sb := lostSb ctxs d.ctx d.sb } }

/-- Starts a task of the step it was fired with (R45). Operations still in flight from an earlier start keep no
scoreboard entry (sb 8), and their results and those of its vector instructions reach no scalar register or flag of the
new one. -/
def Core.startTask (c : Core) (task : Nat) (step : Word) (now : Nat) : Core :=
  let e := c.task task
  let ctxs := teContexts e
  let c1 := (List.range ctxs.length).foldl (fun c k =>
    c.setThread (teFirst e + k) (startThread e step c.rel k)) c
  let run := c1.run task
  let c2 := { c1 with
                    inflight := c1.inflight.map fun (o : MemOp) => { o with sb := lostSb ctxs o.ctx o.sb }
                    loadPath := c1.loadPath.map fun (o : LoadOp) => { o with sb := lostSb ctxs o.ctx o.sb }
                    queues := c1.queues.map fun (q : Nat × Queue) => (q.1, { q.2 with
                      reqs := q.2.reqs.map fun (r : StReq) => { r with sb := lostSb ctxs r.ctx r.sb } })
                    ta := c1.ta.lostDrain ctxs
                    tb := c1.tb.lostDrain ctxs
                    vArith := c1.vArith.map fun (v : VecOp) =>
                      if ctxs.contains v.ctx then { v with sd := none, flags := 0 } else v }
  (c2.setRun task { run with
    live := true, step := step
    pending := if run.restart.isSome then run.pending else none
    restart := none }).phaseStart step (tePhase e) now

/-- A task of a site starts: channels and the ramp of an earlier start keep no scoreboard entry either. -/
def State.beginTask (s : State) (site task : Nat) (step : Word) : State :=
  let c := s.core site
  let i := islandOf site
  let ctxs := teContexts (c.task task)
  let mine (st ctx : Nat) : Bool := st = site && ctxs.contains ctx
  (s.setCore site ({ c with stall := false }.startTask task step (s.islCnt i).toNat)).modIsland i fun x => { x with
    chans := x.chans.map fun (ch : Nat × Chan) => (ch.1, { ch.2 with
      starter := ch.2.starter.map fun g => if mine g.site g.ctx && g.sb < 8 then { g with sb := 9 } else g })
    gov := { x.gov with ramp := x.gov.ramp.map fun r => { r with
      owner := match r.owner with
        | some (st, ctx, sb) => if mine st ctx then none else some (st, ctx, sb)
        | none => none } } }

/-- Predictor counts of a core, by slot that counted (R146). -/
def Core.predCounts (c : Core) : List PredCount :=
  c.prdCnt.filterMap fun x =>
    let info := FMap.getD c.prdInfo x.1 (0, 0)
    if x.2 = 0 then none else
      some { layer := info.1, audited := fld x.2 31 0, misses := fld x.2 63 32, thr := info.2 }

/-- Numbers of the writes that f selects by context and task and that are not yet complete: stores, captures' writes and
drains (R55, R61). -/
def Core.writesOf (c : Core) (f : Nat → Nat → Bool) : List Nat :=
  (c.inflight.filterMap fun o => if f o.ctx o.task && o.write then some o.id else none) ++
  ([c.ta, c.tb].filterMap fun t => match t.drain with
    | some d => if f d.ctx d.task then some d.opId else none
    | none => none)

/-- The last ACTIVE context of a task has halted (R55): retries 0, the completion signal behind the task's writes, the
phase's end, and the predictor counts with the last phase-1 task of the step (R146). -/
def State.completeTask (s : State) (site task : Nat) : State :=
  let c := s.core site
  let e := c.task task
  let run := c.run task
  let now := (s.islCnt (islandOf site)).toNat
  let c1 := (c.setRun task { run with live := false, retries := 0 }).phaseEnd run.step (tePhase e) now
  let s1 := (s.setCore site c1).stampPhase site run.step (tePhase e)
  let s2 := if teDoneEn e then s1.sendSignal {
      src := srcTask site task, srcSite := site
      after := c.writesOf fun _ k => k = task
      dst := fld (FMap.getD c.binding (teDoneCore e) 0) 9 0, slot := teDoneSlot e, n := 1, step := run.step }
    else s1
  let lastOne := tePhase e = 1 && (List.range 32).all fun k =>
    let r := c1.run k
    k = task || tePhase (c1.task k) ≠ 1 || !((r.live && r.step = run.step) || r.pending = some run.step ||
      r.restart = some run.step)
  match s.allotOfSite site with
  | some p =>
    if lastOne then s2.modSpine p fun sp => { sp with
      prdReports := sp.prdReports.filter (fun x => !(x.core = c.rel && x.step = run.step)) ++
        [{ core := c.rel, step := run.step, counts := c1.predCounts }] }
    else s2
  | none => s2

/-- A context halts at an instruction boundary: its task completes when no other context of it is ACTIVE. -/
def State.haltCtx (s : State) (site ctx : Nat) : State :=
  let c := s.core site
  let s1 := s.setCore site (c.setThread ctx { c.thread ctx with st := .halted })
  match c.taskOf ctx with
  | none => s1
  | some task =>
    if (teContexts (c.task task)).any fun k => ((s1.core site).thread k).st = .active then s1
    else s1.completeTask site task

/-! ### Completion of an operation -/

/-- Removes an operation and clears its scoreboard entry (R46). -/
def State.retireOp (s : State) (site : Nat) (o : MemOp) : State :=
  s.modCore site fun c =>
    let c1 := { c with inflight := c.inflight.filter fun x => x.id ≠ o.id }
    if o.sb < 8 then c1.setThread o.ctx ((c1.thread o.ctx).setSb o.sb false) else c1

/-- The byte ranges that an operation reads: a load, and the elements of a vector load, gather or scatter-add. -/
def MemOp.reads (o : MemOp) : List (Nat × Nat) :=
  match o.kind with
  | .load _ a w32 => [(a, if w32 then 4 else 8)]
  | .vmem v => if v.op = .st || v.op = .sct then [] else vmemRanges v
  | _ => []

/-- The step of a write and the bytes it would have written, for the writes that can still meet a fault. -/
def MemOp.step (o : MemOp) : Option Word :=
  match o.kind with
  | .upAcc u => some u.step
  | .vmem v => some v.key.step
  | _ => none

def MemOp.targets (o : MemOp) : List (Nat × Nat) :=
  match o.kind with
  | .upAcc u => [(u.dst + 64 * u.blk, 64 * u.rows), (u.dstScale + u.blk, u.rows)]
  | .vmem v => if o.write then (vmemHits v).flatMap fun x => elemBytes v.desc x.2 else []
  | _ => []

/-- Poisons every unit of a range that allotment p reaches (R313). -/
def State.poisonRange (s : State) (p : Nat) (r : Nat × Nat) : State :=
  match s.resolveRange p r.1 r.2 true with
  | none => s
  | some l => l.foldl (fun s x => match x.1 with
    | .dev a => (List.range (ceilDiv (a % unitSize a + x.2) (unitSize a))).foldl
        (fun s i => s.poison (a + i * unitSize a)) s
    | .host _ => s) s

/-- A write of a step that faults after its task has completed: the step is abandoned, or past its boundary the
destinations are poisoned (R313). -/
def State.lateWrite (s : State) (p : Nat) (step : Option Word) (targets : List (Nat × Nat)) : State :=
  let past := match step, (s.spine p).boundaryOf with
    | some n, some b => decide (n.toNat ≤ b.toNat)
    | _, _ => false
  if past then targets.foldl (fun s r => s.poisonRange p r) s else s.abandonStep p

/-- A fault found after issue: the task aborts while it is live. Later, R313 says what becomes of a write, and a read is
of no use to anyone. -/
def State.lateFault (s : State) (site : Nat) (o : MemOp) (cause : Nat) : State :=
  let c := s.core site
  if o.sb < 8 && (c.run o.task).live then s.abortTask site o.task cause o.ctx o.pc
  else if !o.write then s
  else match s.allotOfSite site with
  | none => s
  | some p => s.lateWrite p o.step o.targets

/-- Applies an operation and retires it, or aborts its task where it meets poison (R312). -/
def State.completeOp (s : State) (site : Nat) (o : MemOp) (check : ReadCheck) : State :=
  match s.allotOfSite site with
  | none => s
  | some p => s.withWindow p o.win fun s =>
    let r := applyOp s site p o check
    match r.cause with
    | some cause => (r.s.retireOp site o).lateFault site o cause
    | none =>
      (if o.sb < 8 then r.s.modCore site fun c => c.setThread o.ctx ((c.thread o.ctx).setFlags r.flags) else r.s).retireOp site o

end Sys2Proof.Machine
end

