-- ==== Sys2Proof/Machine/Issue.lean ====
section
/-! DEFINITION. One offer of the issue wheel (R49): the checks that come before an instruction executes (R46, R47,
R59, R292–R294), what its meaning may answer, and what the wheel does with the answer. Every instruction row is one
call of `issue` with its own body. -/

namespace Sys2Proof.Machine

open Host (Outcome)

/-- What an executed instruction answers: it is not ready, it aborts its task with a cause, it does so after the report
of poison it met, or it issues: pc advances
by one, pc jumps, or the context halts. -/
inductive Res where
  | stall
  | abort (cause : Nat)
  | poison (s : State)
  | next (s : State)
  | jump (pc : BitVec 14) (s : State)
  | halt (s : State)

/-- The slot that is offered: site, context, allotment, task and the thread before the instruction. -/
structure Offer where
  site : Nat
  ctx : Nat
  allot : Nat
  task : Nat
  t : Thread

/-- A word of the code store; beyond the image every word is the reserved all-ones word (R295). -/
def Core.word (c : Core) (pc : Nat) : Word := FMap.getD c.code pc c.codeFill

/-- Scalar registers of a context that an issued instruction has still to write (R47, R292). -/
def Core.pendingRegs (c : Core) (ctx : Nat) : List Nat :=
  (c.inflight.filterMap fun o => match o.kind with
    | .load rd _ _ => if o.ctx = ctx && o.sb < 8 then some rd else none
    | _ => none) ++
  (c.vArith.filterMap fun v => if v.ctx = ctx then v.sd.map fun x => x.1 else none)

/-- The task of a context has issued an instruction in its phase (Table 9 of Cores, Threads and the Planned
Schedule). -/
def Core.noteIssued (c : Core) (ctx : Nat) : Core :=
  match c.taskOf ctx with
  | none => c
  | some k => c.modPhase (c.run k).step (tePhase (c.task k)) fun a => { a with issued := true }

/-- The instruction has issued: pc and the entry's count move on (R49, R295). -/
def Core.retire (c : Core) (ctx : Nat) (pc : BitVec 14) (halted : Bool) : Core :=
  let c1 := (c.noteIssued ctx).setThread ctx { c.thread ctx with pc := pc }
  if halted || c1.left ≤ 1 then c1.advance else { c1 with left := c1.left - 1, stall := false }

/-- The watchdog: the wheel advances and the task of the context it waited for aborts (R52). -/
def State.watchdog (s : State) (site ctx : Nat) : State := (s.modCore site Core.advance).abortCtx site ctx 0x05

/-- The offered instruction is not ready: a stall cycle, and the watchdog at its limit (R49, R52). -/
def State.stallWheel (s : State) (site ctx : Nat) : State :=
  let c := s.core site
  let s1 := s.setCore site { c with stall := true, waited := c.waited + 1 }
  if c.waited + 1 = 2 ^ c.wdogLog2 then s1.watchdog site ctx else s1

/-- The instruction aborts its task; the wheel stays at its entry. -/
def State.abortIssue (s : State) (site ctx cause : Nat) : State :=
  (s.modCore site fun c => { c with stall := false }).abortCtx site ctx cause

/-- What the wheel does with the answer of an executed instruction. -/
def State.settle (s : State) (site ctx : Nat) (pc : BitVec 14) : Res → State
  | .stall => s.stallWheel site ctx
  | .abort cause => s.abortIssue site ctx cause
  | .poison s' => s'.abortIssue site ctx 0x08
  | .next s' => s'.modCore site fun c => c.retire ctx (pc + 1) false
  | .jump tgt s' => s'.modCore site fun c => c.retire ctx tgt false
  | .halt s' => (s'.modCore site fun c => c.retire ctx (pc + 1) true).haltCtx site ctx

/-- Issue checks on an executed instruction (R46, R47, R292), then its body. -/
def execute (x : Instr) (i : Issue) (regs : List Nat) (o : Offer) (body : Offer → State → Res) (s : State) : Res :=
  if namesSb x && o.t.sbPending i.sb.toNat then .stall
  else if regs.any fun r => r ≠ 0 && ((s.core o.site).pendingRegs o.ctx).contains r then .stall
  else body o s

/-- Whether an offered thread may execute its word: not parked, its wait mask clear, and not squashed (R46, R59, R293). -/
def Thread.mayRun (t : Thread) (i : Issue) : Bool :=
  t.waiting.isNone && t.sbs &&& i.wm = 0 && t.pred i.pr.toNat ≠ decide (i.pn = 1)

/-- The offer of instruction x at its site: nothing happens unless the wheel offers exactly this word to an ACTIVE
context. A reserved word aborts first (R294); a thread parked at a barrier or by its wait mask stalls (R46, R59); a
squashed instruction only issues (R293). -/
def issueAt (x : Instr) (i : Issue) (regs : List Nat) (body : Offer → State → Res) (s : State) : State :=
  let c := s.core i.site
  let ctx := c.wheelCtx
  let t := c.thread ctx
  if !s.wheelRuns i.site || t.st ≠ .active then s
  else match s.allotOfSite i.site, c.taskOf ctx with
  | some p, some task =>
    let w := c.word t.pc.toNat
    if reservedWord w then s.abortIssue i.site ctx 0x04
    else if encode x ≠ some w then s
    else if t.waiting.isSome || t.sbs &&& i.wm ≠ 0 then s.stallWheel i.site ctx
    else if t.pred i.pr.toNat = decide (i.pn = 1) then s.settle i.site ctx t.pc (.next s)
    else s.settle i.site ctx t.pc
      (execute x i regs { site := i.site, ctx := ctx, allot := p, task := task, t := t } body s)
  | _, _ => s

/-- The command of an instruction row. regs are the scalar registers it reads or writes. -/
def issue (x : Instr) (i : Issue) (regs : List Nat) (body : Offer → State → Res) (s : State) :
    Outcome State Fault Refusal :=
  s.onSite i.site (issueAt x i regs body)

/-! ### What bodies are made of -/

/-- Changes the issuing thread. -/
def State.modThread (s : State) (o : Offer) (f : Thread → Thread) : State :=
  s.modCore o.site fun c => c.setThread o.ctx (f (c.thread o.ctx))

/-- The operation becomes pending on sb and in flight (R46). -/
def State.launch (s : State) (o : Offer) (sb : BitVec 3) (write : Bool) (kind : OpKind) : State :=
  s.modCore o.site fun c =>
    let c1 := c.setThread o.ctx ((c.thread o.ctx).setSb sb.toNat true)
    { c1 with
      inflight := c1.inflight ++ [{ id := c1.nextOp, ctx := o.ctx, sb := sb.toNat, task := o.task, pc := o.t.pc.toNat
                                    write, kind }]
      nextOp := c1.nextOp + 1 }

/-- An address from a scalar register: bits 63:52 must be 0 (R292). -/
def regAddr (x : Word) : Option Nat := if x.toNat < 2 ^ 52 then some x.toNat else none

/-- The key of stochastic rounding: layer and slot from s15, step from s2, the job seed of the plan (R83, R296). -/
def srKeyOf (s : State) (o : Offer) : SrKey :=
  let k := o.t.reg 15
  { seed := match (s.spine o.allot).plan with | some pl => pl.img.jobSeed | none => 0
    layer := k.setWidth 16, slot := (k >>> 16).setWidth 8, step := o.t.reg 2 }

/-- The registers that hold the key, for an instruction that rounds stochastically: it waits for them (R47, R83, R296). -/
def srRegs (rm : BitVec 2) : List Nat := if rm = 2 then [15, 2] else []

/-- n of a vector instruction (R230, R296): an immediate plus one, or bits 31:0 of a register capped at 4,096. -/
def countOf (o : Offer) (cs : BitVec 1) (cnt : BitVec 12) : Nat :=
  if cs = 1 then min ((o.t.reg (cnt.toNat % 16)).toNat % 2 ^ 32) 4096 else cnt.toNat + 1

/-- The register a count names. -/
def countReg (cs : BitVec 1) (cnt : BitVec 12) : Nat := if cs = 1 then cnt.toNat % 16 else 0

end Sys2Proof.Machine
end

