-- ==== Sys2Proof/Machine/Sparse.lean ====
section
/-! DEFINITION. TN:N tiles (R128–R134): mask words, slots, block bits, the load of a bank, and which tiles are still
pending from an earlier step (R35, R160). -/

namespace Sys2Proof.Machine

/-! ### Mask words (R131, R132, R134) -/

/-- Whether position (rho, gam) is present. -/
def present (w : Word) (rho gam : Nat) : Bool := w.getLsbD (8 * rho + gam)

def rowCount (w : Word) (rho : Nat) : Nat := (List.range 8).countP fun g => present w rho g
def colCount (w : Word) (gam : Nat) : Nat := (List.range 8).countP fun r => present w r gam

/-- The first check of Table 2 that word w fails at level n with its block bit: kind and index. -/
def wordCheck (w : Word) (n : Nat) (bit : Bool) : Option (Nat × Nat) :=
  match (List.range 8).find? fun r => n < rowCount w r with
  | some r => some (0, r)
  | none =>
    match (List.range 8).find? fun g => n < colCount w g with
    | some g => some (1, g)
    | none => if w ≠ 0 && !bit then some (2, 0) else none

/-- Present micro-rows of a micro-column, ascending. -/
def colRows (w : Word) (gam : Nat) : List Nat := (List.range 8).filter fun r => present w r gam

/-- Mask words of a tile from its mask plane, by index 4g + h. -/
def maskWords (n : Nat) (l : List Byte) : List Word :=
  (List.range (128 / n)).map fun k => BitVec.ofNat 64 (ofLe (slice l (8 * k) 8))

/-- The slots of a tile (R132): cell 32s + c with the selection of its micro-row. -/
def slotsOf (n : Nat) (ws : List Word) : List (Nat × Nat) :=
  (List.range 32).flatMap fun c =>
    (List.range (32 / n)).flatMap fun g =>
      let rows := colRows (ws.getD (4 * g + c / 8) 0) (c % 8)
      (List.range (min rows.length n)).map fun i => (32 * (g * n + i) + c, rows.getD i 0)

/-- Every cell of a dense tile, with row s at selection s mod 8. -/
def denseSlots : List (Nat × Nat) := (List.range 1024).map fun k => (k, k / 32 % 8)

/-! ### Sparse tensors (R130) -/

/-- Device address and length of a tile's value plane. -/
def valuePlane (d : DescImg) (t : Nat) : Nat × Nat :=
  (d.base.toNat + t * 512 * nibs d.format.toNat, 512 * nibs d.format.toNat)

/-- Device address and length of a tile's mask plane. -/
def maskPlane (d : DescImg) (t : Nat) : Nat × Nat := (d.sLo.toNat + t * (1024 / d.level), 1024 / d.level)

/-- Block-bit indices of a tile (R130, R151). -/
def tileBlocks (n bcols t : Nat) : List Nat :=
  (List.range (8 / n)).map fun lam => (8 * (t / bcols) / n + lam) * bcols + t % bcols

/-- Bytes of the block map that hold a tile's bits, and the bits. -/
def blockBytes (d : DescImg) (t : Nat) : List (Nat × Nat) :=
  if d.sHi = 0 then [] else (tileBlocks d.level (d.e0.toNat / 32) t).map fun k => (d.sHi.toNat + k / 8, k % 8)

/-- Reads the block bits of a tile by local block; a tensor without a block map has none empty. -/
def readBlockBits (p : Nat) (d : DescImg) (t : Nat) (s : State) : Except ReadResult (List Bool) × State :=
  if d.sHi = 0 then (.ok (List.replicate (8 / d.level) true), s) else readBits p (blockBytes d t) s

/-! ### Loading a bank (R102, R134, R135) -/

/-- Weight bits as the cell holds them: a CB4 code as its BF16 entry, an FP32 value as the named piece in BF16. -/
def weightBits (fm piece : Nat) (cb : List Nat) (x : Nat) : Word32 :=
  if fm = 8 then BitVec.ofNat 32 (cb.getD x 0)
  else if fm = 0 then BitVec.ofNat 32 (FFmt.encode .bf16 (operandPiece piece (FFmt.decode .fp32 x)))
  else BitVec.ofNat 32 x

/-- Element k of a packed plane of n-nibble elements. -/
def planeElem (n : Nat) (l : List Byte) (k : Nat) : Nat :=
  if n = 1 then (ofLe (slice l (k / 2) 1) >>> (4 * (k % 2))) % 16 else ofLe (slice l (k * (n / 2)) (n / 2))

/-- How a load ends: the bank, an illegal mask word with its place and check, or poison or a fault with its cause. -/
inductive BankLoad where
  | bank (b : Bank)
  | illegal (index : Nat) (word : Word) (check : Nat × Nat)
  | fail (cause : Nat)

/-- Reads a weight tile in the order of R134. -/
def loadBank (s : State) (p : Nat) (src : LoadSrc) (check : ReadCheck) : BankLoad × State :=
  let d := src.desc
  let n := d.level
  let fm := d.format.toNat
  let (rb, s0) := readBlockBits p d src.tile s
  let (rm, s1) := if n = 8 then (ReadResult.data [], s0)
    else s0.readCk p (maskPlane d src.tile).1 (maskPlane d src.tile).2 .clean
  match rb, rm with
  | .error .fault, _ | _, .fault => (.fail 0x01, s1)
  | .error _, _ | _, .poison => (.fail 0x08, s1)
  | .ok bits, .data ml =>
    let ws := if n = 8 then [] else maskWords n ml
    let bad := (List.range ws.length).find? fun k => (wordCheck (ws.getD k 0) n (bits.getD (k / 16) true)).isSome
    match bad with
    | some k => (.illegal k (ws.getD k 0) ((wordCheck (ws.getD k 0) n (bits.getD (k / 16) true)).getD (0, 0)), s1)
    | none =>
      if !bits.any id then
        (.bank { fmt := some fm, level := n, cells := [], empty := true, src := some src }, s1)
      else
        let (rc, s2) := if fm = 8 then s1.readCk p d.aux.toNat 32 .clean else (ReadResult.data [], s1)
        let (rv, s3) := s2.readCk p (valuePlane d src.tile).1 (valuePlane d src.tile).2 check
        match rc, rv with
        | .data cbl, .data vl =>
          let cb := (List.range 16).map fun c => ofLe (slice cbl (2 * c) 2)
          let slots := if n = 8 then denseSlots else slotsOf n ws
          (.bank { fmt := some fm, level := n, empty := false, src := some src
                   cells := slots.foldl (fun (m : FMap (Word32 × Nat)) x =>
                     FMap.insert x.1 (weightBits fm src.piece cb (planeElem (nibs fm) vl x.1), x.2) m) [] }, s3)
        | .fault, _ | _, .fault => (.fail 0x01, s3)
        | _, _ => (.fail 0x08, s3)

/-- SP_FLT and SP_FLT_WORD after an illegal word (R134 Table 4). -/
def Core.noteIllegal (c : Core) (tile bank index : Nat) (word : Word) (check : Nat × Nat) : Core :=
  if bit c.spFlt 0 then { c with spFlt := setFld c.spFlt 23 20 (min (fld c.spFlt 23 20 + 1) 15) }
  else
    { c with
      spFlt := BitVec.ofNat 64 (tile % 65536 * 2 ^ 32 + check.1 * 2 ^ 18 + check.2 * 2 ^ 15 + bank * 2 ^ 12 +
        index / 4 * 2 ^ 7 + index % 4 * 2 ^ 5 + 1)
      spFltWord := word }

/-! ### Tiles still pending (R35, R160) -/

/-- Whether step n is a mask step of a layer (R153). -/
def layerStep (l : LayerRec) (n : Nat) : Bool :=
  l.firstStep ≤ n && n ≤ l.lastStep && l.period ≠ 0 && (n - l.firstStep) % l.period = 0

/-- Whether a count has been reached. -/
def reached (v : Nat) (o : Option Word) : Bool := match o with | some x => decide (v ≤ x.toNat) | none => false

/-- Whether the working copy of tile t of a descriptor is still to be written for step − 1, as work of a step sees it. -/
def copyPending (s : State) (p : Nat) (d : DescImg) (t : Nat) (step : Word) : Bool :=
  let sp := s.spine p
  match sp.plan with
  | none => false
  | some pl =>
    if step = 0 || reached (step.toNat - 1) sp.boundaryOf then false
    else match (toMap pl.updates).find? fun u => u.2.valueAddr.addr pl.sites = (valuePlane d t).1 with
      | none => false
      | some (k, u) =>
        !reached (step.toNat - 1) sp.lastVerdict || (s.pkg u.planisher).todo.contains k && !(s.pkg u.planisher).clearOnly

/-- Whether tile t of a descriptor names the value or the mask plane of a work record. -/
def namesWork (pl : Plan) (d : DescImg) (t : Nat) (w : WorkRec) : Bool :=
  w.valueAddr.addr pl.sites = (valuePlane d t).1 ||
  (d.level < 8 && w.maskAddr.addr pl.sites = (maskPlane d t).1)

/-- Whether the mask of tile t is still to be written: a Vetch unit has it marked pending, whichever step asks (R160), or
its mask step is step − 1 and the mask phase has yet to begin (R35). -/
def maskPending (s : State) (p : Nat) (d : DescImg) (t : Nat) (step : Word) : Bool :=
  let sp := s.spine p
  match sp.plan, s.record p with
  | some pl, some r =>
    (r.islands.any fun i => (s.island i).vetch.pendingTiles.any fun k => match pl.works[k]? with
      | some w => namesWork pl d t w
      | none => false) ||
    (step ≠ 0 && !reached (step.toNat - 1) sp.boundaryOf &&
      (!sp.updEnded || !reached (step.toNat - 1) sp.lastVerdict) &&
      pl.works.any fun w => namesWork pl d t w &&
        match FMap.find w.layer pl.layers with
        | some l => layerStep l (step.toNat - 1)
        | none => false)
  | _, _ => false

/-- Whether a tile load of a step parks (R35, R160). -/
def tilePending (s : State) (p : Nat) (d : DescImg) (t : Nat) (step : Word) : Bool :=
  copyPending s p d t step || maskPending s p d t step

end Sys2Proof.Machine
end

