-- ==== Sys2Proof/Machine/Array.lean ====
section
/-! DEFINITION. The matrix array, Teasel and the activation predictor (R100–R127, R134–R147, R173–R177, R305, R306). An
mx.mul forms its rows at issue; loads act when they complete; a drain writes when it starts. -/

namespace Sys2Proof.Machine

open Host (Outcome)

/-! ### Accumulation (R112–R118) -/

/-- Divides an integer by 2^k, to nearest with ties to even (R121 step 3). -/
def rneShift (x : Int) (k : Nat) : Int :=
  if k = 0 then x else
    let m := roundAt x.natAbs 0 k .rne
    if x < 0 then -(m.1 : Int) else m.1

/-- Adds one FP32 chunk to an element; a quiet row sets no flag (R144). A chunk that is a NaN or infinite sets nan or inf
(R113), and so does an element that becomes one. A finite chunk added to an element that a preload made a NaN or infinite
counts as the latter (DESIGN CHOICE, log entry 76). -/
def Tile.addFp (t : Tile) (idx : Nat) (quiet : Bool) (ps : List Val) : Tile :=
  match chunkValue ps with
  | none => t
  | some (v, st) =>
    let acc := val32 (FMap.getD t.elems idx 0)
    let (c, f1) := roundFp .fp32 .rne false v
    let (r, f2) := add32 false acc c
    let ovfNow := acc.isFin && v.isFin && ((f1 ||| f2) &&& fOverflow ≠ 0)
    let t1 := { t with elems := FMap.insert idx (bits32 r) t.elems }
    if quiet then t1
    else { t1 with
      ovf := t.ovf || ovfNow
      nan := t.nan || v.isNan || r.isNan
      inf := t.inf || v.isInf || r.isInf
      sticky := t.sticky || st }

/-- Adds one INT32 chunk to an element (R115, R119). -/
def Tile.addInt (t : Tile) (idx : Nat) (quiet : Bool) (ps : List Int) : Tile :=
  let sum := (FMap.getD t.elems idx 0).toInt + ps.foldl (· + ·) 0
  let y := satI sum (intMin 32) (intMax 32)
  { t with elems := FMap.insert idx (BitVec.ofInt 32 y) t.elems, ovf := t.ovf || (!quiet && decide (y ≠ sum)) }

/-- Adds a chunk's products, scaled by 2^(−k) for a replay (R121 step 4). -/
def Tile.addChunk (t : Tile) (idx k : Nat) (quiet : Bool) (ps : List (Elem × Elem)) : Tile :=
  if ps.isEmpty then t
  else if t.int then
    t.addInt idx quiet (ps.map fun x => match x with
      | (.int a, .int b) => rneShift (a * b) k
      | _ => 0)
  else t.addFp idx quiet (ps.map fun x => (x.1.val.mul x.2.val).scale (-(k : Int)))

/-- A cell's operand from its bits (R102). -/
def cellElem (fm : Nat) (x : Word32) : Elem :=
  if fm = 0 || fm = 8 then .fp (FFmt.decode .bf16 x.toNat) else memElem fm x.toNat

/-- Bits of a streamed element (XM field sf), and element k of a row. -/
def streamBits (sf : Nat) : Nat := if sf = 0 then 32 else if sf ≤ 2 then 16 else if sf ≤ 5 then 8 else 4

def streamElem (sf piece : Nat) (l : List Byte) (k : Nat) : Elem :=
  let x := unpackAt (streamBits sf) l k
  match sf with
  | 0 => .fp (operandPiece piece (FFmt.decode .fp32 x))
  | 1 => .fp (FFmt.decode .bf16 x)
  | 2 => .fp (FFmt.decode .fp16 x)
  | 3 => .fp (FFmt.decode .e5m2 x)
  | 4 => .fp (FFmt.decode .e4m3 x)
  | 5 => .int (signed 8 x)
  | _ => .int (signed 4 x)

/-- One streamed row through a bank: plain (R101, R136) or transposed (R101, R137). i is the row within the mx.mul. -/
def Tile.streamRow (t : Tile) (b : Bank) (tr : Bool) (r0 i k : Nat) (quiet : Bool) (x : Nat → Elem) : Tile :=
  let n := b.level
  let fm := b.fmt.getD 0
  let cell (s c : Nat) : Option (Elem × Nat) := (FMap.find (32 * s + c) b.cells).map fun v => (cellElem fm v.1, v.2)
  if tr then
    (List.range (256 / n)).foldl (fun t kap =>
      let ps := (List.range n).flatMap fun j =>
        (List.range 32).filterMap fun c => match cell (kap / 8 * n + j) c with
          | some (w, sel) => if sel = kap % 8 then some (x c, w) else none
          | none => none
      t.addChunk (32 * (r0 + i * (8 / n) + kap / 32) + kap % 32) k quiet ps) t
  else
    (List.range (8 / n)).foldl (fun t q =>
      (List.range 32).foldl (fun t c =>
        let ps := (List.range (4 * n)).filterMap fun j =>
          let s := 4 * n * q + j
          (cell s c).map fun v => (x (8 * (s / n) + v.2), v.1)
        t.addChunk (32 * (r0 + i) + c) k quiet ps) t) t

/-! ### Records and geometry (R106, R120, R137) -/

/-- Elements of a streamed row. -/
def rowElems (b : Bank) (tr : Bool) : Nat := if tr then 32 else 256 / b.level

/-- Bytes of a streamed row. -/
def rowBytes (b : Bank) (tr : Bool) (sf : Nat) : Nat := rowElems b tr * streamBits sf / 8

/-- Operand pairs of the array (R95 Table 5). -/
def pairOk (fm sf : Nat) : Bool :=
  if fm = 0 then sf = 0
  else if [1, 2, 3, 4, 8].contains fm then [1, 2, 3, 4].contains sf
  else if fm = 6 || fm = 7 then sf = 5 || sf = 6
  else false

def intStream (sf : Nat) : Bool := sf = 5 || sf = 6

/-- Dense reduction indices of one row-pass (R118, R139). -/
def countPerRow (b : Bank) (tr : Bool) : Nat := if b.fmt.isNone || tr then 32 else 256 / b.level

/-- Opens an EMPTY tile for a task with MX_CFG's settings: record, count and flags clear (R104, R125). -/
def Core.openTile (c : Core) (int : Bool) (task : Nat) (pred : Option Pred) : Tile :=
  { st := .opened, int, task, pred, scaleLog2 := fld c.mxCfg 7 4, lim := fld c.mxCfg 1 0 }

/-- Whether a preload of a tile is on the load path. -/
def Core.preloading (c : Core) (tl : Nat) : Bool :=
  c.loadPath.any fun o => match o.kind with | .preload k _ => k = tl | _ => false

/-- A tile that an mx.mul or mx.pre may not touch: its drain has issued, or it is draining or replaying (R105, R106,
R108), or any tile replays (R121). -/
def Core.tileBusy (c : Core) (tl : Nat) : Bool :=
  c.ta.st = .replaying || c.tb.st = .replaying || (c.tile tl).drain.isSome || (c.tile tl).st = .draining

/-- The first m entries of a queue that no consumer has taken, if all are present. -/
def Queue.head (q : Queue) (m : Nat) : Option (List QEntry) :=
  let l := (q.ring.filter fun e => e.st = .fetching || e.st = .present).take m
  if l.length = m && l.all (fun e => e.st = .present) then some l else none

/-- Marks entries taken by a consumer of a task, for a tile or until release (R56, R262). -/
def Queue.take (q : Queue) (l : List QEntry) (task : Nat) (tile : Option Nat) : Queue :=
  { q with ring := q.ring.map fun (e : QEntry) =>
      if l.any fun x => x.pos = e.pos && e.st = .present then { e with st := .taken, task := task, tile := tile } else e }

def Queue.on (q : Queue) : Bool := bit q.cfg 0
/-- Entry size in bytes (R260). -/
def Queue.esize (q : Queue) : Nat := 64 * (fld q.cfg 27 24 + 1)

/-- A row of a predicted tile that is not predicted active (R144). -/
def Tile.inactive (t : Tile) (row : Nat) : Bool :=
  match t.pred with | some p => !p.mask.getLsbD row | none => false
/-- Whether such a row still enters: only in an audited tile. -/
def Tile.audited (t : Tile) : Bool := match t.pred with | some p => p.audit | none => false

/-- Streams rows, each a tile row with the bytes of its entry, into a tile. -/
def Tile.streamRows (t : Tile) (b : Bank) (tr : Bool) (r0 sf piece k : Nat) (rows : List (Nat × List Byte)) : Tile :=
  if b.empty then t
  else rows.foldl (fun t x => t.streamRow b tr r0 x.1 k (!tr && t.inactive (r0 + x.1)) (streamElem sf piece x.2)) t

/-! ### mx.ldw, mx.pre and sp.prd: the load path (R103, R105, R143) -/

/-- Puts a transfer on the load path and makes its scoreboard entry pending. -/
def State.launchLoad (s : State) (o : Offer) (sb : BitVec 3) (kind : LoadKind) : State :=
  s.modCore o.site fun c =>
    let c1 := c.setThread o.ctx ((c.thread o.ctx).setSb sb.toNat true)
    { c1 with loadPath := c1.loadPath ++ [{ ctx := o.ctx, sb := sb.toNat, task := o.task, pc := o.t.pc.toNat, kind }] }

/-- Whether [a, a + n) lies in the issuing core's own slice and is reachable (R305). -/
def ownRange (s : State) (o : Offer) (a n : Nat) (wr : Bool) : Bool :=
  decide (sliceBase o.site ≤ a) && decide (a + n ≤ sliceBase o.site + sliceSize) && s.reach o.allot wr (a, n)

/-- The SPARSE descriptor of a slot and a tile index in its range (R258): none is cause 0x09. -/
def tileDesc (c : Core) (td : Nat) (t : Word) : Option DescImg :=
  match FMap.find td c.tds with
  | none => none
  | some d => if d.kind ≠ 2 || !bit d.access 0 || d.tiles ≤ t.toNat then none else some d

/-- Byte ranges that the load of a tile reads. -/
def tileRanges (d : DescImg) (t : Nat) : List (Nat × Nat) :=
  [valuePlane d t] ++ (if d.level = 8 then [] else [maskPlane d t]) ++ ((blockBytes d t).map fun x => (x.1, 1)) ++
  (if d.format = 8 then [(d.aux.toNat, 32)] else [])

/-- mx.ldw: a weight tile into a bank. -/
def execMxLdw (i : Issue) (o : FXL) (s : State) : Outcome State Fault Refusal :=
  issue (.mxLdw i o) i [o.rt.toNat]
    (fun k s =>
      let c := s.core k.site
      let t := k.t.reg o.rt.toNat
      if c.ta.st = .replaying || c.tb.st = .replaying then .stall
      else match tileDesc c o.td.toNat t with
      | none => .abort 0x09
      | some d =>
        if (o.pc ≠ 0) ≠ (d.format = 0) then .abort 0x04
        else if (tileRanges d t.toNat).any (fun r => !s.reach k.allot false r) then .abort 0x01
        else
          let b := o.bk.toNat
          let s1 := s.modCore k.site fun c => c.setBank b { c.bank b with loading := true }
          .next (s1.launchLoad k i.sb (.weights b { desc := d, tile := t.toNat, piece := namedPiece o.pc.toNat k.t.pc.toNat }))) s

/-- mx.pre: the initial value of a tile; an EMPTY tile opens. -/
def execMxPre (i : Issue) (o : FXP) (s : State) : Outcome State Fault Refusal :=
  issue (.mxPre i o) i [o.ra.toNat]
    (fun k s =>
      let c := s.core k.site
      let tl := o.tl.toNat
      let n := if o.md = 1 then 128 else 4096
      if c.tileBusy tl then .stall
      else match regAddr (k.t.reg o.ra.toNat) with
      | none => .abort 0x01
      | some a =>
        if !ownRange s k a n false then .abort 0x01
        else
          let t := c.tile tl
          let t1 := if t.st = .empty then c.openTile (o.ty = 1) k.task none else { t with task := k.task }
          .next ((s.setCore k.site (c.setTile tl t1)).launchLoad k i.sb
            (.preload tl { addr := a, bcast := o.md = 1, int := o.ty = 1 }))) s

/-- sp.prd: a tile's predict register from a score tile and a predictor record. -/
def execSpPrd (i : Issue) (o : FSP) (s : State) : Outcome State Fault Refusal :=
  issue (.spPrd i o) i [2, o.ra.toNat, o.rb.toNat]
    (fun k s =>
      match regAddr (k.t.reg o.ra.toNat), regAddr (k.t.reg o.rb.toNat) with
      | some a, some b =>
        if !ownRange s k a 4096 false || !ownRange s k b 16 false then .abort 0x01
        else .next (s.launchLoad k i.sb (.predict o.tl.toNat a b o.tag (k.t.reg 2)))
      | _, _ => .abort 0x01) s

/-- The elements a preload gives a tile, scaled by 2^(−k) on a replay (R121 step 3). -/
def preloadElems (p : PreSrc) (k : Nat) (l : List Byte) : FMap Word32 :=
  (List.range 1024).foldl (fun (m : FMap Word32) e =>
    let x : Word32 := BitVec.ofNat 32 (ofLe (slice l (4 * (if p.bcast then e % 32 else e)) 4))
    let y := if k = 0 then x
      else if p.int then BitVec.ofInt 32 (rneShift x.toInt k)
      else bits32 (rne32 ((val32 x).scale (-(k : Int))))
    if y = 0 then m else FMap.insert e y m) []

/-- The predict register that sp.prd sets (R143). -/
def predOf (scores rec : List Byte) (scoreAddr : Nat) (tag : BitVec 16) (step : Word) : Pred :=
  let tauP := val32 (BitVec.ofNat 32 (ofLe (slice rec 0 4)))
  let active (r : Nat) : Bool := (List.range 32).any fun c =>
    tauP.lt (val32 (BitVec.ofNat 32 (ofLe (slice scores (4 * (32 * r + c)) 4))))
  { mask := (List.range 32).foldl (fun (m : Word32) r => if active r then setFld m r r 1 else m) 0
    audit := (tag.toNat + step.toNat % 65536) % 16 = 0
    tau := BitVec.ofNat 32 (ofLe (slice rec 4 4))
    layer := ofLe (slice rec 8 1), slot := ofLe (slice rec 9 1) % 16, thr := ofLe (slice rec 10 2), scoreAddr }

/-- The head of the load path leaves it and its scoreboard entry clears. -/
def Core.popLoad (c : Core) : Core :=
  match c.loadPath with
  | [] => c
  | o :: t => (c.setThread o.ctx ((c.thread o.ctx).setSb o.sb false)).setPath t

/-- The class 0x09 report of a load or drain (R464). -/
def State.reportIllegal (s : State) (site tile bank : Nat) (ck : Nat × Nat) : State :=
  s.reportFrom 0x09 (islandOf site) site (s.allotOfSite site)
    (tile % 65536 + ck.1 * 2 ^ 16 + ck.2 * 2 ^ 18 + bank * 2 ^ 21)

/-- An illegal mask word of a load or a drain: SP_FLT and the report (R134, R177). -/
def State.illegalWord (s : State) (site tile bank index : Nat) (w : Word) (ck : Nat × Nat) : State :=
  (s.modCore site fun c => c.noteIllegal tile bank index w ck).reportIllegal site tile bank ck

/-- A transfer that met a fault aborts its task; of an earlier start of the task, it only leaves the path. -/
def State.abortLoad (s : State) (site : Nat) (o : LoadOp) (cause : Nat) : State :=
  if o.sb < 8 && ((s.core site).run o.task).live then s.abortTask site o.task cause o.ctx o.pc
  else s.modCore site Core.popLoad

/-- TILE_LOAD_COMPLETE: the transfer at the head of the load path finishes. A weight tile that is still pending parks
(R35, R160); an illegal mask word or poison aborts the task and leaves the bank at +0 (R134, R124). A preload of a
predicted tile clears its mx.mul entries and leaves it predicted (DESIGN CHOICE, log entry 76). The record holds the source
of a preload into a tile that an mx.mul opened too, so that a replay starts from it (R120, R121: DESIGN CHOICE, log entry
79). -/
def execTileLoadComplete (site : Nat) (check : ReadCheck) (s : State) : Outcome State Fault Refusal :=
  s.onSite site fun s =>
    let c := s.core site
    match c.loadPath, s.allotOfSite site with
    | o :: _, some p => s.withWindow p o.win fun s =>
      match o.kind with
      | .weights b src =>
        if tilePending s p src.desc src.tile (c.run o.task).step then s
        else
          let (r, s1) := loadBank s p src check
          match r with
          | .bank bk => s1.modCore site fun c => (c.setBank b bk).popLoad
          | .illegal idx w ck =>
            ((s1.modCore site fun c => c.setBank b {}).illegalWord site src.tile b idx w ck).abortLoad site o 0x03
          | .fail cause => (s1.modCore site fun c => c.setBank b {}).abortLoad site o cause
      | .preload tl src =>
        let (r, s1) := s.readCk p src.addr (if src.bcast then 128 else 4096) check
        match r with
        | .data l => s1.modCore site fun c =>
            let t := c.tile tl
            let fresh := t.recs.isEmpty && t.pre.isNone && t.elems.isEmpty
            (c.setTile tl { t with
              int := src.int, elems := preloadElems src 0 l, recs := [], cnt := 0, pre := some src
              discard := t.discard || !fresh }).popLoad
        | .poison => s1.abortLoad site o 0x08
        | .fault => s1.abortLoad site o 0x01
      | .predict tl a b tag step =>
        let (ra, s1) := s.readCk p a 4096 check
        let (rb, s2) := s1.readCk p b 16 .clean
        match ra, rb with
        | .data la, .data lb => s2.modCore site fun c => (c.setPred tl (some (predOf la lb a tag step))).popLoad
        | .fault, _ | _, .fault => s2.abortLoad site o 0x01
        | _, _ => s2.abortLoad site o 0x08
    | _, _ => s

/-! ### mx.mul (R106, R136, R137, R139, R144) -/

/-- The predict register at reset. -/
def Pred.reset : Pred := { mask := 0, audit := false, tau := 0, layer := 0, slot := 0, thr := 0, scoreAddr := 0 }

/-- What a predicted tile holds when it opens: under fallback every row enters and nothing is audited (R144, R147). -/
def Core.effective (c : Core) (tl : Nat) : Pred :=
  let p := (c.pred tl).getD Pred.reset
  if bit (FMap.getD c.prdFb (p.layer / 64) 0) (p.layer % 64) then { p with mask := 0xFFFFFFFF, audit := false } else p

/-- Conditions of R294 that the units decide for an mx.mul, beside its queue's enable bit. -/
def mulReserved (c : Core) (o : FXM) : Bool :=
  let b := c.bank o.bk.toNat
  let t := c.tile o.tl.toNat
  let q := c.queue o.q.toNat
  let m := o.m.toNat + 1
  let tr := decide (o.t = 1)
  let sf := o.sf.toNat
  (b.fmt.isSome && !pairOk (b.fmt.getD 0) sf) ||
  (b.fmt.isSome && t.st = .opened && t.int ≠ intStream sf) ||
  (tr && b.level < 8 && (4 * b.level < m || 32 < o.r0.toNat + m * (8 / b.level))) ||
  q.esize < rowBytes b tr sf ||
  (t.st = .opened && decide (o.pd = 1) ≠ t.pred.isSome)

/-- The record entry of an mx.mul, if the record has room (R120), and the product count (R118). -/
def Tile.note (t : Tile) (e : RecEnt) (rows per : Nat) : Tile :=
  let cnt := min (t.cnt + rows * per) (2 ^ 32 - 1)
  { t with
    recs := if t.recs.length < 64 then t.recs ++ [e] else t.recs
    repVoid := t.repVoid || decide (64 ≤ t.recs.length)
    cnt := cnt
    boundVoid := t.boundVoid || decide (65536 < cnt) }

/-- Whether an mx.mul would issue: the entries it takes, once its tile, its bank and its rows are ready (R103, R105, R106,
R121) and a predicted tile has its fallback bits (R147); or why not. A queue that is off has no rows to wait for. -/
def mulEntries (c : Core) (o : FXM) (step : Word) : Except Res (List QEntry) :=
  let q := c.queue o.q.toNat
  if c.tileBusy o.tl.toNat || c.preloading o.tl.toNat || (c.bank o.bk.toNat).loading then .error .stall
  else if !q.on then .error (.abort 0x04)
  else match q.head (o.m.toNat + 1) with
  | none => .error .stall
  | some ents =>
    if (c.tile o.tl.toNat).st = .empty && o.pd = 1 && c.prdFbStep ≠ step - 1 then .error .stall
    else if mulReserved c o then .error (.abort 0x04)
    else .ok ents

/-- The tile an mx.mul of a task accumulates into: an EMPTY one opens, predicted if the predict bit is 1 (R106, R144). -/
def Core.mulTile (c : Core) (o : FXM) (task : Nat) : Tile :=
  if (c.tile o.tl.toNat).st = .empty then
    c.openTile (intStream o.sf.toNat) task (if o.pd = 1 then some (c.effective o.tl.toNat) else none)
  else { c.tile o.tl.toNat with task := task }

/-- mx.mul: m rows of a queue through a bank into a tile. A bank at +0 reads no row. The step in which a predicted tile opens
is the one in the issuing thread's s2, whatever its task's own step (R147: DESIGN CHOICE, log entry 79). -/
def execMxMul (i : Issue) (o : FXM) (s : State) : Outcome State Fault Refusal :=
  issue (.mxMul i o) i (if o.pd = 1 then [2] else [])
    (fun k s =>
      let c := s.core k.site
      let b := c.bank o.bk.toNat
      let m := o.m.toNat + 1
      let tr := decide (o.t = 1)
      let sf := o.sf.toNat
      match mulEntries c o (k.t.reg 2) with
      | .error r => r
      | .ok ents =>
        let t1 := c.mulTile o k.task
        let n := rowBytes b tr sf
        let rows := (List.range m).map fun j => (j, sliceBase k.site + (ents.map fun e => e.pos).getD j 0)
        let entered := rows.filter fun x => t1.audited || tr || !t1.inactive (o.r0.toNat + x.1)
        match readEach k.allot (if b.empty then [] else entered.map fun x => (x.2, n)) s with
        | (.error .poison, s1) => .poison s1
        | (.error _, _) => .abort 0x01
        | (.ok data, s1) =>
          let piece := namedPiece o.pc.toNat k.t.pc.toNat
          let ent : RecEnt := { src := b.src, bank := o.bk.toNat, t := tr, sf, piece
                                r0 := o.r0.toNat, m, rows := entered }
          let t2 := (t1.streamRows b tr o.r0.toNat sf piece 0 ((entered.map Prod.fst).zip data)).note ent m
            (countPerRow b tr)
          .next (s1.modCore k.site fun c =>
            (c.setTile o.tl.toNat t2).setQueue o.q.toNat ((c.queue o.q.toNat).take ents k.task (some o.tl.toNat)))) s

/-- PREDICTED_TILE_OPEN: the wheel offers an mx.mul with predict 1 into this EMPTY tile, which would issue, and PRD_FBSTEP
shows the step before; the tile opens (R147). -/
def execPredictedTileOpen (site tile : Nat) (s : State) : Outcome State Fault Refusal :=
  s.onUnit (decide (site < 576) && decide (tile < 2)) fun s =>
    let c := s.core site
    let t := c.thread c.wheelCtx
    let w := c.word t.pc.toNat
    match decode site w, c.taskOf c.wheelCtx with
    | some (.mxMul i o), some task =>
      if s.wheelRuns site && t.st = .active && !reservedWord w && t.mayRun i && o.pd = 1 && o.tl.toNat = tile &&
          !(c.pendingRegs c.wheelCtx).contains 2 &&
          (c.tile tile).st = .empty && (mulEntries c o (t.reg 2)).isOk then
        s.setCore site (c.setTile tile (c.mulTile o task))
      else s
    | _, _ => s

/-! ### mx.drn and the drain (R107–R109, R144, R145, R176, R177, R306) -/

/-- Formats a tile may drain to (R107). -/
def drainTarget (t : Tile) (fm : Nat) : Bool :=
  let fp := [0, 1, 2, 3, 4, 9].contains fm
  let int := [5, 6, 7, 0].contains fm
  if t.st = .empty then fp || int else if t.int then int else fp

/-- Bytes of a row of 32 elements in a target format, and of a target with `rows` rows. -/
def rowLen (fm : Nat) : Nat := 4 * fmtBits fm
def targetLen (fm rows : Nat) : Nat := if fm = 9 then 2048 + rows else rows * rowLen fm

/-- The mask words of local block lam, and the byte and place of its block bit (R177). -/
def localMask (d : DescImg) (t lam : Nat) : Nat × Nat := ((maskPlane d t).1 + 128 * lam, 128)
def localBit (d : DescImg) (t lam : Nat) : List (Nat × Nat) := ((blockBytes d t).drop lam).take 1

/-- mx.drn: a request to drain a tile. -/
def execMxDrn (i : Issue) (o : FXD) (s : State) : Outcome State Fault Refusal :=
  issue (.mxDrn i o) i ([o.ra.toNat, o.rt.toNat, o.rx.toNat, o.rs.toNat] ++ srRegs o.rm)
    (fun k s =>
      let c := s.core k.site
      let tl := o.tl.toNat
      let t := c.tile tl
      let fm := o.fm.toNat
      let compact := decide (2 ≤ o.md.toNat)
      let ti := k.t.reg o.rt.toNat
      if c.tileBusy tl || c.preloading tl then .stall
      else if !drainTarget t fm || (compact && t.int && t.st ≠ .empty) then .abort 0x04
      else
        let d := if compact then tileDesc c o.td.toNat ti else none
        if compact && d.isNone then .abort 0x09
        else if (match d with | some d => d.level = 8 || 8 / d.level ≤ o.lam.toNat | none => false) then .abort 0x04
        else match regAddr (k.t.reg o.ra.toNat), regAddr (k.t.reg o.rs.toNat), regAddr (k.t.reg o.rx.toNat) with
        | some ra, some rs, some rx =>
          let first : Nat × Nat := match d with
            | some d => (4 * d.level * o.lam.toNat * rowLen fm, 4 * d.level * rowLen fm)
            | none => (0, 32 * rowLen fm)
          let scales : Nat × Nat := match d with
            | some d => (2048 + 4 * d.level * o.lam.toNat, 4 * d.level)
            | none => (2048, 32)
          let ok := ownRange s k (ra + first.1) first.2 true &&
            (fm ≠ 9 || ownRange s k (ra + scales.1) scales.2 true) &&
            (!(o.md = 1 || o.md = 3) || ownRange s k rs (targetLen fm 32) true) &&
            (o.sw = 0 || ownRange s k rx 1 true) &&
            (match t.pred with | some p => ownRange s k (p.scoreAddr + 4096) 8 true | none => true) &&
            (match d with
              | some d => s.reach k.allot false (localMask d ti.toNat o.lam.toNat) &&
                  (localBit d ti.toNat o.lam.toNat).all fun x => s.reach k.allot false (x.1, 1)
              | none => true)
          if !ok then .abort 0x01
          else
            let c1 := c.setThread k.ctx ((c.thread k.ctx).setSb i.sb.toNat true)
            let dr : Drain := { ctx := k.ctx, sb := i.sb.toNat, task := k.task, pc := k.t.pc.toNat, opId := c.nextOp, o, ra, rs, rx,
                                td := d, tile := ti.toNat, key := srKeyOf s k }
            .next (s.setCore k.site { c1.setTile tl { t with task := k.task, drain := some dr } with
              nextOp := c.nextOp + 1 })
        | _, _, _ => .abort 0x01) s

/-- The element of a tile that a drain converts: unscaled by 2^(−sx) when un is 1 (R109). -/
def Tile.drainElem (t : Tile) (un : Bool) (e : Nat) : Elem :=
  let x := FMap.getD t.elems e 0
  let k : Int := if un then -t.sx else 0
  if t.int then .int (x.toInt * 2 ^ k.toNat) else .fp ((val32 x).scale k)

/-- Conversion flags as the cvt fields of TILE_STAT hold them: overflow, underflow, invalid, inexact. -/
def cvtOf (f : Flags) : BitVec 4 :=
  BitVec.ofNat 4 (8 * b2n (f &&& fOverflow ≠ 0) + 4 * b2n (f &&& fUnderflow ≠ 0) + 2 * b2n (f &&& fInvalid ≠ 0) +
    b2n (f &&& fInexact ≠ 0))

/-- Writes one target row of 32 elements, each with its index for stochastic rounding. -/
def writeRow (s : State) (p base row scale : Nat) (o : FXD) (key : SrKey) (els : List (Elem × Nat)) : State × Flags :=
  let fm := o.fm.toNat
  let ieee := decide (o.ieee = 1)
  let md (idx : Nat) : Rnd := rndOf o.rm.toNat key idx
  if fm = 9 then
    let (sc, hs, fl) := g16Encode (els.map fun x => x.1.val) (fun j => md ((els.map Prod.snd).getD j 0)) ieee
    ((s.poke p (base + 64 * row) ((hs.map (leBytes 2)).foldl (· ++ ·) [])).poke p (base + scale + row)
      (leBytes 1 (wrap 8 sc)), fl)
  else
    let r := els.map fun x => toMem fm (md x.2) ieee x.1
    (s.poke p (base + row * rowLen fm) (packBits (fmtBits fm) (r.map Prod.fst)),
     r.foldl (fun a x => a ||| x.2) 0)

/-- Writes a list of rows. -/
def writeRows (s : State) (p base : Nat) (o : FXD) (key : SrKey) (rows : List (Nat × List (Elem × Nat))) :
    State × Flags :=
  rows.foldl (fun (acc : State × Flags) r =>
    let (s', f) := writeRow acc.1 p base r.1 2048 o key r.2
    (s', acc.2 ||| f)) (s, 0)

/-- The drained value of element (r, c): +0 in a row that is not predicted active (R144). -/
def Tile.out (t : Tile) (un : Bool) (r c : Nat) : Elem :=
  if t.inactive r then (if t.int then .int 0 else .fp Val.zero) else t.drainElem un (32 * r + c)

/-- Rows of a plain target, of its sample-inner copy (R175), and of a compacting target (R176). -/
def plainRows (t : Tile) (un : Bool) : List (Nat × List (Elem × Nat)) :=
  (List.range 32).map fun r => (r, (List.range 32).map fun c => (t.out un r c, 32 * r + c))
def innerRows (t : Tile) (un : Bool) : List (Nat × List (Elem × Nat)) :=
  (List.range 32).map fun c => (c, (List.range 32).map fun r => (t.out un r c, 32 * r + c))
def slotRows (t : Tile) (un : Bool) (n lam : Nat) (slots : FMap Nat) : List (Nat × List (Elem × Nat)) :=
  (List.range (4 * n)).map fun j =>
    let s := 4 * n * lam + j
    (s, (List.range 32).map fun c => match FMap.find (32 * s + c) slots with
      | some sel => (t.out un (8 * (s / n) + sel - 32 * lam) c, 32 * s + c)
      | none => (.fp Val.zero, 32 * s + c))

/-- What a compacting drain reads in its first cycle: the mask words of its local block, as a tile of those words alone,
and its block bit; or the cause of an abort. -/
def drainMask (p : Nat) (d : DescImg) (t lam : Nat) (s : State) : Except Nat (List Word × Bool) × State :=
  let (rb, s1) := readBits p (localBit d t lam) s
  let (rm, s2) := s1.readCk p (localMask d t lam).1 (localMask d t lam).2 .clean
  match rb, rm with
  | .ok bs, .data l => (.ok (List.replicate (16 * lam) 0 ++ (List.range 16).map fun k =>
      (BitVec.ofNat 64 (ofLe (slice l (8 * k) 8)) : Word), bs.getD 0 true), s2)
  | .error r, _ | _, r => (.error r.cause, s2)

/-- The first word of a drain's local block that is illegal, by its index in the tile, with its check. -/
def badWord (n lam : Nat) (ws : List Word) (blk : Bool) : Option (Nat × Word × (Nat × Nat)) :=
  ((List.range 16).map (16 * lam + ·)).findSome? fun k => (wordCheck (ws.getD k 0) n blk).map fun ck => (k, ws.getD k 0, ck)

/-- Releases the queue entries that a tile holds (R120, R262). -/
def Core.releaseTile (c : Core) (tl : Nat) : Core :=
  { c with queues := c.queues.map fun (x : Nat × Queue) => (x.1, x.2.release fun e => e.st = .taken && e.tile = some tl) }

/-- The bytes a drain writes its elements to. -/
def Drain.target (d : Drain) : Nat × Nat :=
  let n := rowLen d.o.fm.toNat
  match d.td with
  | some td => (d.ra + 4 * td.level * d.o.lam.toNat * n, 4 * td.level * n)
  | none => (d.ra, 32 * n)

/-- A drain of tile tl that met a fault aborts its task. Once the task has completed, the tile is EMPTY and R313 says what
becomes of the write. -/
def State.abortDrain (s : State) (site tl : Nat) (d : Drain) (cause : Nat) : State :=
  if d.sb < 8 && ((s.core site).run d.task).live then s.abortTask site d.task cause d.ctx d.pc
  else
    let s1 := s.modCore site fun c => (c.releaseTile tl).setTile tl (c.tile tl).emptied
    match s.allotOfSite site with
    | some p => s1.lateWrite p (some d.key.step) [d.target]
    | none => s1

/-- A drain begins writing: every row, the scale exponent, and the effective mask of a predicted tile. The tile is
DRAINING until DRAIN_COMPLETE. An illegal mask word or a poisoned one aborts the task, and nothing is written. -/
def beginDrain (s : State) (site p tl : Nat) (d : Drain) : State :=
  let t := (s.core site).tile tl
  let un := decide (d.o.un = 1)
  let finish (r : State × Flags) : State :=
    let s1 := if d.o.sw = 1 then r.1.poke p d.rx (leBytes 1 (wrap 8 t.sx)) else r.1
    let s2 := match t.pred with
      | some pr => s1.poke p (pr.scoreAddr + 4096) (leBytes 4 pr.mask.toNat ++ leBytes 4 (b2n pr.audit))
      | none => s1
    s2.modCore site fun c => c.setTile tl { c.tile tl with st := .draining, cvt := (c.tile tl).cvt ||| cvtOf r.2 }
  match d.td with
  | none =>
    let r := writeRows s p d.ra d.o d.key (plainRows t un)
    if d.o.md = 1 then
      let r2 := writeRows r.1 p d.rs d.o d.key (innerRows t un)
      finish (r2.1, r.2 ||| r2.2)
    else finish r
  | some td =>
    match drainMask p td d.tile d.o.lam.toNat s with
    | (.error cause, s) => s.abortDrain site tl d cause
    | (.ok (ws, blk), s) =>
      match badWord td.level d.o.lam.toNat ws blk with
      | some (k, w, ck) => (s.illegalWord site d.tile 0 k w ck).abortDrain site tl d 0x03
      | none =>
        let slots : FMap Nat := (slotsOf td.level ws).foldl (fun (m : FMap Nat) x => FMap.insert x.1 x.2 m) []
        let r1 := if d.o.md = 3 then writeRows s p d.rs d.o d.key (plainRows t un) else (s, 0)
        let r2 := writeRows r1.1 p d.ra d.o d.key (slotRows t un td.level d.o.lam.toNat slots)
        finish (r2.1, r1.2 ||| r2.2)

/-- Whether a tile's drain may begin: it has issued, the tile's rows are in, and the drain port is free (R108). A
compacting drain also waits for its mask (R35, R160, R177). -/
def drainReady (s : State) (site p tl : Nat) (d : Drain) : Bool :=
  let c := s.core site
  let t := c.tile tl
  (t.st = .opened || t.st = .empty) && !c.preloading tl &&
  (c.tile (1 - tl)).st ≠ .draining && (c.tile (1 - tl)).st ≠ .replaying &&
  (match d.td with
    | some td => !maskPending s p td d.tile (c.run d.task).step
    | none => true)

/-- DRAIN_START: the replay decision of R121, and the drain's writes when the tile does not replay. An EMPTY tile holds
nothing to replay and drains with scale exponent 0 (R108). While it drains, TILE_STAT shows DRAINING and the status flags,
record and count of before (DESIGN CHOICE, log entry 79). -/
def execDrainStart (site tile : Nat) (s : State) : Outcome State Fault Refusal :=
  s.onUnit (decide (site < 576) && decide (tile < 2)) fun s =>
    let t := (s.core site).tile tile
    match t.drain, s.allotOfSite site with
    | some d, some p =>
      if !drainReady s site p tile d then s
      else
        let setT (t : Tile) : State := s.modCore site fun c => c.setTile tile t
        if t.st = .empty then beginDrain (setT { t with sx := 0, replays := 0 }) site p tile d
        else if t.ovf && !t.repVoid && decide (t.replays < t.lim) then setT { t with st := .replaying }
        else beginDrain (setT (if t.ovf then { t with sat := true } else t)) site p tile d
    | _, _ => s

/-! ### Overflow replay (R121–R124) -/

/-- The initial value of a tile that replays, at 2^(−k) (R121 step 3); or the cause of an abort. -/
def reloadPre (p k : Nat) (t : Tile) (s : State) : Except Nat Tile × State :=
  match t.pre with
  | none => (.ok { t with elems := [], ovf := false }, s)
  | some pre =>
    match s.readCk p pre.addr (if pre.bcast then 128 else 4096) .clean with
    | (.data l, s1) => (.ok { t with elems := preloadElems pre k l, ovf := false }, s1)
    | (r, s1) => (.error r.cause, s1)

/-- Reloads a bank with weights, with the checks of the original load (R121, R141); or the cause of an abort. A bank that
was at +0 is at +0. -/
def reloadBank (site p bank : Nat) (src : Option LoadSrc) (s : State) : Except Nat Bank × State :=
  match src with
  | none => (.ok {}, s)
  | some x => match loadBank s p x .clean with
    | (.bank b, s1) => (.ok b, s1)
    | (.illegal idx w ck, s1) => (.error 0x03, s1.illegalWord site x.tile bank idx w ck)
    | (.fail c, s1) => (.error c, s1)

/-- One record entry again, at 2^(−k) (R121 step 4). -/
def replayEntry (site p k : Nat) (t : Tile) (e : RecEnt) (s : State) : Except Nat Tile × State :=
  match reloadBank site p e.bank e.src s with
  | (.error c, s1) => (.error c, s1)
  | (.ok b, s1) =>
    match readEach p (if b.empty then [] else e.rows.map fun x => (x.2, rowBytes b e.t e.sf)) s1 with
    | (.error r, s2) => (.error r.cause, s2)
    | (.ok data, s2) => (.ok (t.streamRows b e.t e.r0 e.sf e.piece k ((e.rows.map Prod.fst).zip data)), s2)

/-- Recomputes a tile from its record at 2^(−k). -/
def rerun (site p k : Nat) (t : Tile) (s : State) : Except Nat Tile × State :=
  t.recs.foldl (fun acc e => match acc with
    | (.ok t, s) => replayEntry site p k t e s
    | x => x) (reloadPre p k t s)

/-- Steps 2 to 5 of R121, at most `fuel` passes; each counts in the drain's phase as it begins. -/
def replayPasses (site p tl : Nat) (d : Drain) : Nat → Tile → State → Except Nat Tile × State
  | 0, t, s => (.ok t, s)
  | f + 1, t, s =>
    let r := t.replays + 1
    let s0 := s.modCore site fun c =>
      (c.setTile tl { t with replays := r, ovf := false, elems := [] }).modPhase (c.run d.task).step (tePhase (c.task d.task))
        fun a => { a with replays := a.replays + 1 }
    match rerun site p (r * t.scaleLog2) { t with replays := r } s0 with
    | (.ok t1, s1) => if t1.ovf && decide (r < t.lim) then replayPasses site p tl d f t1 s1 else (.ok t1, s1)
    | x => x

/-- Step 6 of R121: each bank is loaded again with the weights it held, bank 0 first. -/
def restoreBanks (site p : Nat) (s : State) : Except Nat Unit × State :=
  [0, 1].foldl (fun acc b => match acc with
    | (.ok _, s) => match reloadBank site p b ((s.core site).bank b).src s with
      | (.ok v, s1) => (.ok (), s1.modCore site fun c => c.setBank b v)
      | (.error c, s1) => (.error c, s1)
    | x => x) (.ok (), s)

/-- OVERFLOW_REPLAY: the array, idle, recomputes a REPLAYING tile until it does not overflow or its replays are used,
restores the banks, and the drain begins with sx = −r × scale_log2. Transfers that issued before complete first. -/
def execOverflowReplay (site tile : Nat) (s : State) : Outcome State Fault Refusal :=
  s.onUnit (decide (site < 576) && decide (tile < 2)) fun s =>
    let c := s.core site
    let t := c.tile tile
    match t.drain, s.allotOfSite site with
    | some d, some p =>
      if t.st ≠ .replaying || !c.loadPath.isEmpty then s
      else match replayPasses site p tile d 3 t s with
      | (.error cause, s1) => s1.abortDrain site tile d cause
      | (.ok t1, s1) =>
        match restoreBanks site p s1 with
        | (.error cause, s2) => s2.abortDrain site tile d cause
        | (.ok _, s2) =>
          let t2 := { t1 with sat := t1.sat || t1.ovf, sx := -((t1.replays * t1.scaleLog2 : Nat) : Int) }
          beginDrain (s2.modCore site fun c => c.setTile tile t2) site p tile d
    | _, _ => s

/-- Misses of an audited tile at its drain (R145). -/
def Tile.missCount (t : Tile) (pr : Pred) : Nat :=
  (List.range 1024).countP fun e =>
    !pr.mask.getLsbD (e / 32) && (val32 pr.tau).lt (t.drainElem true e).val

/-- Audited counts and misses of the tile's slot (R145). The slot reports the layer and thr of the tile that counted in it
last (DESIGN CHOICE, log entry 76). -/
def Core.countAudit (c : Core) (t : Tile) : Core :=
  match t.pred with
  | some pr =>
    if pr.audit then
      let w := FMap.getD c.prdCnt pr.slot 0
      let w1 := setFld w 31 0 (min (fld w 31 0 + 1024) (2 ^ 32 - 1))
      let w2 := setFld w1 63 32 (min (fld w 63 32 + t.missCount pr) (2 ^ 32 - 1))
      { c with prdCnt := FMap.insert pr.slot w2 c.prdCnt, prdInfo := FMap.insert pr.slot (pr.layer, pr.thr) c.prdInfo }
    else c
  | none => c

/-- DRAIN_COMPLETE: the last row is written; the tile is EMPTY, its entries are released and the scoreboard entry
clears. -/
def execDrainComplete (site tile : Nat) (s : State) : Outcome State Fault Refusal :=
  s.onUnit (decide (site < 576) && decide (tile < 2)) fun s =>
    let c := s.core site
    let t := c.tile tile
    match t.drain with
    | some d =>
      if t.st ≠ .draining then s
      else
        let c1 := ((c.countAudit t).releaseTile tile).setTile tile
          { t.emptied with recs := t.recs }
        let c1 := if d.td.isSome then { c1 with cdrn := satAdd c1.cdrn 1 } else c1
        s.setCore site (if d.sb < 8 then c1.setThread d.ctx ((c1.thread d.ctx).setSb d.sb false) else c1)
    | none => s

end Sys2Proof.Machine
end

