-- ==== Sys2Proof/Machine/Power.lean ====
section
/-! DEFINITION. Operating points and the current envelope (R389–R411): ramps, Ballast selection, the governor's tick,
wind-downs, clock steps, island faults, and the other faults that fence units (R311, R323). -/

namespace Sys2Proof.Machine

open Host (Outcome)

/-! ### Gated islands: compute islands 0–35, memory-controller islands 36–47 (R398) -/

def State.gov (s : State) (g : Nat) : GovIsland := if g < 36 then (s.island g).gov else (s.pkg (g - 36)).gov
def State.modGov (s : State) (g : Nat) (f : GovIsland → GovIsland) : State :=
  if g < 36 then s.modIsland g fun x => { x with gov := f x.gov } else s.modPkg (g - 36) fun x => { x with gov := f x.gov }

/-- Gated islands of a record, in ascending clock-island index. -/
def gatedOf (r : AllotRec) : List Nat := r.islands ++ r.pkgs.map (36 + ·)

/-- The last x of the points that ascend from x on (R154: a table is cut where they stop). -/
def lastTick : Nat → List (Nat × Nat) → Nat
  | x, [] => x
  | x, p :: t => if x < p.1 then lastTick p.1 t else x

/-- The last tick of a curve. -/
def curveEnd (c : Curve) : Nat :=
  match c.points.take c.count with
  | [] => 0
  | p :: t => lastTick p.1 t

/-- Whether a ramp still moves its planned level: along a curve until it has passed the last point, where it reaches its
target (R400). A straight ramp reaches it at tick 1, and a wind-down ends with its curve's last point or after 1,000
ticks (R403). -/
def Ramp.running (r : Ramp) : Bool :=
  match r.curve with
  | some c => if r.windDown then r.tick < curveEnd c else r.tick ≤ curveEnd c
  | none => if r.windDown then r.tick < 1000 else r.tick < 1

/-- P at a tick of a ramp (R400) or a wind-down (R403). -/
def Ramp.level (r : Ramp) : Nat :=
  if r.windDown then
    let f := match r.curve with
      | some c => curveAt c r.tick
      | none => 2 ^ 24 * (1000 - r.tick) / 1000
    ((r.target : Int) + (((r.from_ : Int) - r.target) * f).tdiv (2 ^ 24)).toNat
  else match r.curve with
    | some c =>
      if curveEnd c < r.tick then r.target
      else ((r.from_ : Int) + (((r.target : Int) - r.from_) * curveAt c r.tick).tdiv (2 ^ 24)).toNat
    | none => if r.tick = 0 then r.from_ else r.target

/-- A ramp whose curve has ended is kept while its entry waits for A to reach the target. -/
def GovIsland.moving (x : GovIsland) : Bool :=
  match x.ramp with
  | some r => r.running || r.owner.isSome
  | none => false

/-! ### pw.ramp and pw.bsel (R307, R400, R403) -/

/-- Clears the entry of the ramp of island g. -/
def State.endRamp (s : State) (g : Nat) : State :=
  match (s.gov g).ramp with
  | some r =>
    match r.owner with
    | some (site, ctx, sb) => (s.clearSb site ctx sb).modGov g fun x => { x with ramp := some { r with owner := none } }
    | none => s
  | none => s

/-- A ramp that a core of a higher position has issued on the island in the same cycle, beside which one of position k
takes no effect (R400). The commands between two idle steps are of one cycle. -/
def GovIsland.outranks (x : GovIsland) (now : Word) (k : Nat) : Bool :=
  match x.ramp with
  | some r => !r.windDown && r.issued.1 = now && decide (k < r.issued.2)
  | none => false

/-- pw.ramp ra, k: a ramp of the island's planned level toward bits 31:0 of ra along curve k; it replaces a running
ramp or wind-down, whose entry clears. -/
def execPwRamp (i : Issue) (o : FPW) (s : State) : Outcome State Fault Refusal :=
  issue (.pwRamp i o) i [o.ra.toNat]
    (fun k s =>
      let g := islandOf k.site
      if (s.gov g).outranks s.ticks (posOf k.site) then .next s else
      let s1 := s.endRamp g
      let s2 := s1.modCore k.site fun c => c.setThread k.ctx ((c.thread k.ctx).setSb i.sb.toNat true)
      let cv := match (s.spine k.allot).plan with
        | some pl => pl.boundCurves[o.k.toNat]?
        | none => none
      .next (s2.modGov g fun x => { x with
        ramp := some { from_ := x.planned, target := (k.t.reg o.ra.toNat).toNat % 2 ^ 32, curve := cv, tick := 0,
                       windDown := false, owner := some (k.site, k.ctx, i.sb.toNat)
                       issued := (s.ticks, posOf k.site) } })) s

/-- pw.bsel k: the Ballast curve of later wind-downs of the island. -/
def execPwBsel (i : Issue) (o : FPW) (s : State) : Outcome State Fault Refusal :=
  issue (.pwBsel i o) i []
    (fun k s => .next (s.modGov (islandOf k.site) fun x => { x with bsel := o.k.toNat })) s

/-! ### The governor's tick (R399, R401–R404, R410) -/

/-- What an island asks for in a tick: a rise or a descent in mW. A floor in force refuses rises and lowers the
target; a trip descends toward 0. -/
def GovIsland.request (x : GovIsland) (floor trip : Bool) : Int :=
  if trip then -(x.allowed : Int)
  else if floor then
    let t := min (x.floorTarget.getD x.planned) x.planned
    if t < x.allowed then (t : Int) - x.allowed else 0
  else (x.planned : Int) - x.allowed

/-- Grants requests in ascending index up to a budget; the last one in part. -/
def grant : Nat → List (Nat × Nat) → List (Nat × Nat)
  | _, [] => []
  | b, (g, n) :: t => (g, min n b) :: grant (b - min n b) t

/-- Admission of R399: signed changes by island, and whether a rise or a descent was cut. -/
def admitted (b : Nat) (req : List (Nat × Int)) : List (Nat × Int) × Bool × Bool :=
  let rises := req.filterMap fun x => if 0 < x.2 then some (x.1, x.2.toNat) else none
  let falls := req.filterMap fun x => if x.2 < 0 then some (x.1, (-x.2).toNat) else none
  let r := (rises.map Prod.snd).sum
  let d := (falls.map Prod.snd).sum
  let gr := if d + b < r then grant (d + b) rises else rises
  let gf := if r + b < d then grant (r + b) falls else falls
  ((gr.map fun x => (x.1, (x.2 : Int))) ++ (gf.map fun x => (x.1, -(x.2 : Int))), decide (d + b < r),
   decide (r + b < d))

/-- The slew budget of a tick in mW: S × 48 V × 0.1 µs (R399). -/
def State.budget (s : State) : Nat := s.hm.govSlew.toNat * 600

/-- Moves every ramp and wind-down on by one tick. -/
def GovIsland.advance (x : GovIsland) : GovIsland :=
  match x.ramp with
  | none => x
  | some r =>
    let r1 := { r with tick := r.tick + 1 }
    let x1 := { x with planned := r1.level }
    if !r1.running && r1.owner.isNone then { x1 with ramp := none } else { x1 with ramp := some r1 }

/-- GOVERNOR_TICK: planned levels move along their ramps, the allowed levels follow within each allotment's share of
the budget, and gates and Ballast follow from the estimators' draws, by gated island; an island that is not listed
draws what it drew before. -/
def execGovernorTick (draw : FMap Nat) (s : State) : Outcome State Fault Refusal :=
  s.onUnit true fun s =>
    let s1 := forEach (List.range 48) s fun s g => if (s.gov g).ramp.isSome then s.modGov g GovIsland.advance else s
    let floor := s1.hm.floor
    let trip := s1.hm.trip
    let req (gs : List Nat) : List (Nat × Int) := gs.map fun g => (g, (s1.gov g).request floor trip)
    let parts : List (List (Nat × Int) × Bool × Bool) :=
      if trip then [admitted s1.budget (req (List.range 48))]
      else (List.range 8).filterMap fun p => (s1.record p).map fun r =>
        admitted (s1.budget * (gatedOf r).length / 48) (req (gatedOf r))
    let refused := floor && (List.range 48).any fun g => (s1.gov g).allowed < (s1.gov g).planned
    let s2 := parts.foldl (fun s a => a.1.foldl (fun s c =>
      if c.2 = 0 then s else s.modGov c.1 fun x => { x with allowed := ((x.allowed : Int) + c.2).toNat }) s) s1
    let s3 := s2.modHm fun h => { h with
      rising := (parts.any fun a => a.2.1) || refused
      descending := parts.any fun a => a.2.2 }
    forEach (List.range 48) s3 fun s g =>
      let x := s.gov g
      let e := FMap.getD draw g x.estimate
      let idle := if e < x.allowed && !x.moving then x.idleTicks + 1 else 0
      let y := { x with estimate := e, ballast := x.allowed - e, gateClosed := decide (x.allowed < e), idleTicks := idle }
      if y = x then s else s.modGov g fun _ => y

/-- RAMP_COMPLETE: the allowed level of an island equals the target of its ramp, and the entry of the pw.ramp clears
(R400). -/
def execRampComplete (island : Nat) (s : State) : Outcome State Fault Refusal :=
  s.onIsland island fun s =>
    let x := s.gov island
    match x.ramp with
    | some r =>
      if r.windDown || r.owner.isNone || x.allowed ≠ r.target then s
      else
        let s1 := s.endRamp island
        if r.running then s1 else s1.modGov island fun x => { x with ramp := none }
    | none => s

/-- IDLE_WIND_DOWN: E has stayed below A for GOV_CFG.idle ticks with no ramp running (R403). -/
def execIdleWindDown (island : Nat) (s : State) : Outcome State Fault Refusal :=
  s.onUnit (island < 48) fun s =>
    let x := s.gov island
    if x.moving || x.idleTicks < s.hm.govIdle.toNat then s
    else (s.windDown island).modGov island fun x => { x with idleTicks := 0 }

/-- Brake and leak floor (R404): the target of every gated island is its share of F − U, in mW rounded down. -/
def State.setFloor (s : State) : State :=
  let sum := ((List.range 48).map fun g => (s.gov g).allowed).sum
  let f := (s.hm.govFloor.toNat - 80) * 1000
  forEach (List.range 48) s fun s g => s.modGov g fun x => { x with
    floorTarget := some (if sum = 0 then 0 else x.allowed * f / sum) }

def State.clearFloor (s : State) : State :=
  forEach (List.range 48) s fun s g => s.modGov g fun x => { x with floorTarget := none }

/-! ### Clock steps and throttling (R390, R409) -/

/-- The island's step is to become t: the idle output relocks, or a relock under way is dropped. -/
def Island.retarget (x : Island) : Island :=
  let t := max x.capStep x.planStep
  { x with relock := if t = x.step then none else some t }

/-- The clock cap of an island in MHz: the throttle curve at its temperature, and the cap for 100 °C while the SRAM die
above it is at 95 °C or more (R408 Table 5). Die d lies over rows 3(d / 2) to 3(d / 2) + 2, columns 3(d mod 2) to
3(d mod 2) + 2. -/
def State.capMhz (s : State) (i : Nat) : Nat :=
  let t := (10 * (s.island i).temp).toNat
  let die := 2 * (rowOf i / 3) + colOf i / 3
  let own := curveAt s.hm.throttle t
  let hot := match FMap.find (144 + die) s.hm.sensors with
    | some r => r.valid && decide (95000 ≤ r.value)
    | none => false
  if hot then min own (curveAt s.hm.throttle 100000) else own

/-- Throttle evaluation of an island at a sample; `count` says that this sample counts toward the millisecond of
permission, kept as samples of 10 µs. -/
def State.throttleEval (s : State) (i : Nat) (count : Bool) : State :=
  let cap := stepOfMhz (s.capMhz i)
  let x := s.island i
  if x.capStep < cap then
    ((s.modIsland i fun x => ({ x with capStep := cap }).retarget).setRail i).modHm fun h =>
      { h with throttleOk := FMap.erase i h.throttleOk }
  else if cap < x.capStep then
    if count then s.modHm fun h => { h with throttleOk := FMap.insert i (FMap.getD h.throttleOk i 0 + 1) h.throttleOk }
    else s
  else s.modHm fun h => { h with throttleOk := FMap.erase i h.throttleOk }

/-- THROTTLE_STEP_UP: the curve has permitted a higher clock for 1 ms without a break, and the cap rises one step. -/
def execThrottleStepUp (island : Nat) (s : State) : Outcome State Fault Refusal :=
  s.onIsland island fun s =>
    if FMap.getD s.hm.throttleOk island 0 < 100 || (s.island island).capStep = 0 then s
    else ((s.modIsland island fun x => ({ x with capStep := x.capStep - 1 }).retarget).setRail island).modHm fun h =>
      { h with throttleOk := FMap.erase island h.throttleOk }

/-- CLOCK_STEP_SWITCH: the idle output has relocked, and the island switches to it; the voltage follows a fall (R390). -/
def execClockStepSwitch (island : Nat) (s : State) : Outcome State Fault Refusal :=
  s.onIsland island fun s =>
    match (s.island island).relock with
    | none => s
    | some t => ((s.modIsland island fun x => { x with step := t, relock := none }).setRail island).evalStale island

/-- CLOCK_STRETCH: one stretched cycle of the island's clock (R392). -/
def execClockStretch (island : Nat) (s : State) : Outcome State Fault Refusal :=
  s.onIsland island fun s =>
    if (s.island island).clockLost then s
    else s.modIsland island fun x => { x with stretched := satAdd x.stretched 1 }

/-! ### Faults that halt units (R311, R323, R392) -/

/-- What an island fault, class 0x0B, does at the island: it is reported, the island winds down, and its cores halt and are
fenced. -/
def State.haltIsland (s : State) (i : Nat) : State :=
  let s1 := (s.reportFrom 0x0B i 0xFFFF (s.allotOfIsland i) 0).windDown i
  forEach (islandSites i) s1 fun s x => if s.boot.badSites.contains x then s else s.fenceCore x 0x0B

/-- An island fault at an island of no cores: reported, and a memory controller winds down (R392, R403). -/
def State.haltOther (s : State) (i : Nat) : State :=
  if i < 48 then
    (s.reportFrom 0x0B i (576 + (i - 36)) (s.allotOfPkg (i - 36)) 0).windDown i
  else s.reportFrom 0x0B i 0xFFFF (if i < 56 then some (i - 48) else none) 0

/-- The allotments whose steps an island fault abandons: the owner of a compute or memory-controller island, the allotment
of a port, and every one for the spine and the ingest island, which all share (R311, R323). -/
def State.faultAllots (s : State) (i : Nat) : List Nat :=
  if i < 36 then (s.allotOfIsland i).toList
  else if i < 48 then (s.allotOfPkg (i - 36)).toList
  else if i < 56 then [i - 48]
  else if i = 58 || i = 59 then List.range 8 else []

/-- An island fault: its allotment abandons its step, or stops when the router or the clock is lost. -/
def State.islandFault (s : State) (i : Nat) (lost : Bool) : State :=
  let s2 := if i < 36 then s.haltIsland i else s.haltOther i
  forEach (s.faultAllots i) s2 fun s p => if lost then s.stopLoaded p 0x14 i else s.abandonStep p

/-- ISLAND_CLOCK_LOSS: the PLL loses lock or the clock monitor fails. -/
def execIslandClockLoss (island : Nat) (s : State) : Outcome State Fault Refusal :=
  s.onUnit (island < 60) fun s =>
    if 36 ≤ island then
      if s.lostClocks.contains island then s
      else { s with lostClocks := s.lostClocks ++ [island] }.islandFault island true
    else if (s.island island).clockLost then s
    else (s.modIsland island fun x => ({ x with clockLost := true }).setStale true).islandFault island true

/-- HANDSHAKE_TIMEOUT: a crossing into the island holds an unread item for 2^16 sending cycles. -/
def execHandshakeTimeout (island : Nat) (s : State) : Outcome State Fault Refusal :=
  s.onUnit (island < 60) fun s => s.islandFault island false

/-- DROOP_BEYOND_LIMIT: the core voltage stays below its limit for 1 µs. -/
def execDroopBeyondLimit (island : Nat) (s : State) : Outcome State Fault Refusal :=
  s.onIsland island fun s => s.islandFault island false

/-- CORE_STATE_ERROR: an error in a core's own state, class 0x06. A single-bit error of a SEC-DED store is corrected;
any other halts and fences the core, and its allotment abandons the step. -/
def execCoreStateError (site : Nat) (kind : CoreError) (s : State) : Outcome State Fault Refusal :=
  s.onSite site fun s =>
    if s.boot.badSites.contains site || (s.core site).fenced then s
    else
      let s1 := s.reportFrom 0x06 (islandOf site) site (s.allotOfSite site) 0
      match kind with
      | .correctable => s1
      | .uncorrected => s1.fenceCoreStep site 0x06

/-- MEMORY_CONTROLLER_FAULT: a controller or Planisher self-check fails, class 0x0C: the island winds down and the
package is fenced. -/
def execMemoryControllerFault (pkg : Nat) (s : State) : Outcome State Fault Refusal :=
  s.onPkg pkg fun s =>
    if (s.pkg pkg).fenced then s
    else ((s.reportFrom 0x0C (36 + pkg) (576 + pkg) (s.allotOfPkg pkg) 0).windDown (36 + pkg)).fencePackage pkg 0x0C

/-- SPINE_FAULT: the self-check of an allotment's spine partition fails, class 0x0D, and the allotment stops. -/
def execSpineFault (allot : Nat) (s : State) : Outcome State Fault Refusal :=
  s.onAllot allot fun s =>
    if (s.record allot).isNone then s
    else (s.reportFrom 0x0D 58 0xFFFF (some allot) 0).stopLoaded allot 0x16 0

/-! ### Scrubbing (R320, R322) -/

/-- One scrub read of the line at a, whose unit at u meets what `check` says: what it finds is counted, and a unit
found correctable in two consecutive passes is persistent. Units are named by first address. Poison it meets is reported
(R312). -/
def State.scrubLine (s : State) (a u : Nat) (cls : Nat) (seen last : List Nat) (check : ReadCheck) : State × List Nat :=
  let inj := (s.injected.filter fun x => touches a 64 x.1 && x.2 = 1).map Prod.fst
  let found := inj ++ if check = .corrected && !inj.contains u then [u] else []
  let locs := [(Loc.dev a, 64)]
  let s1 := s.metPoison ((s.meetInjected a 64).applyCheck u check) locs check
  (forEach (found.filter last.contains) s1 fun s u => s.noteUnit u true cls, seen ++ found)

/-- SLICE_SCRUB_READ: the patrol of a slice reads its next line; the code of the given word finds `check`. -/
def execSliceScrubRead (patrol : PatrolWord) (check : ReadCheck) (s : State) : Outcome State Fault Refusal :=
  s.onSite patrol.site fun s =>
    let site := patrol.site
    let i := islandOf site
    if !s.sliceOk site || (s.island i).clockLost then s
    else
      let pos := FMap.getD (s.island i).scrubPos (posOf site) 0
      let a := sliceBase site + 64 * pos
      let here (l : List Nat) : List Nat := l.filter fun u => u / sliceSize = site
      let other (l : List Nat) : List Nat := l.filter fun u => u / sliceSize ≠ site
      let s0 := if pos = 0 then s.modIsland i fun x =>
          { x with
            ecc := FMap.insert (posOf site) (setFld (FMap.getD x.ecc (posOf site) 0) 47 32 0) x.ecc
            ceLast := other x.ceLast ++ here x.ceSeen
            ceSeen := other x.ceSeen }
        else s
      let (s1, seen) := s0.scrubLine a (a + 8 * (patrol.word % 8)) 0x01 (s0.island i).ceSeen (s0.island i).ceLast check
      let next := (pos + 1) % (sliceSize / 64)
      s1.modIsland i fun x => { x with
        ceSeen := seen
        scrubPos := FMap.insert (posOf site) next x.scrubPos
        scrubPasses := if next = 0 && posOf site = 0 then satAdd x.scrubPasses 1 else x.scrubPasses }

/-- PACKAGE_SCRUB_READ: the patrol of a package reads its next line. A pass whose correctable errors exceed ce_lim
raises an alert and fences nothing. -/
def execPackageScrubRead (pkg : Nat) (check : ReadCheck) (s : State) : Outcome State Fault Refusal :=
  s.onPkg pkg fun s =>
    if !s.pkgOk pkg || s.pkgStalled pkg then s
    else
      let pos := (s.pkg pkg).scrubPos
      let s0 := if pos = 0 then s.modPkg pkg fun x => { x with cePass := 0, ceLast := x.ceSeen, ceSeen := [] } else s
      let (s1, seen) := s0.scrubLine (lpBase pkg + 64 * pos) (lpBase pkg + 64 * pos) 0x03 (s0.pkg pkg).ceSeen (s0.pkg pkg).ceLast check
      let next := (pos + 1) % (0x1200000000 / 64)
      let s2 := s1.modPkg pkg fun x => { x with
        ceSeen := seen, scrubPos := next
        scrubPasses := if next = 0 then satAdd x.scrubPasses 1 else x.scrubPasses }
      if (s2.pkg pkg).ceLim.toNat < (s2.pkg pkg).cePass then s2.alertLatch 1 else s2

end Sys2Proof.Machine
end

