-- ==== Sys2Proof/Machine/Sensors.lean ====
section
/-! DEFINITION. Hallmark's hardware paths (R364): sensors and thermal limits (R365, R408–R410), the input filters and
their actions (R369–R373), rail faults (R367), and the log intake (R374, R375). -/

namespace Sys2Proof.Machine

open Host (Outcome)

/-! ### Sensors (R365) -/

/-- Sensor ids of Table 2. -/
def sensorId (id : Nat) : Bool := id < 154 || (160 ≤ id && id < 192)

/-- Kind code of Table 3. -/
def sensorKind (id : Nat) : Nat :=
  if id < 96 then 0 else if id < 132 then 1 else if id < 148 then 0
  else if id = 148 then 1 else if id = 149 then 2 else if id = 150 then 3
  else if id < 153 then 0 else if id = 153 then 4 else if id < 176 then 1 else 2

/-- The warn threshold in force. -/
def Hallmark.warn (h : Hallmark) (id : Nat) : Int := FMap.getD h.thresh id (warnDefault id)

/-- A reading beyond its threshold in the direction of danger: downward for input voltage and flow (R365). -/
def beyondWarn (id : Nat) (v warn : Int) : Bool :=
  if id = 148 || id = 153 then decide (v < warn) else decide (warn < v)

def Hallmark.sensor (h : Hallmark) (id : Nat) : Sensor := FMap.getD h.sensors id {}

/-- Whether a sensor's last reading is beyond the threshold now in force, which SET_THRESH changes at once (R365). -/
def Hallmark.beyond (h : Hallmark) (id : Nat) : Bool :=
  (h.sensor id).valid && beyondWarn id (h.sensor id).value (h.warn id)

/-- A sensor record of 16 bytes (Table 3). -/
def Hallmark.sensorBytes (h : Hallmark) (id : Nat) : List Byte :=
  let r := h.sensor id
  leBytes 2 id ++ leBytes 1 (sensorKind id) ++ leBytes 1 (b2n r.valid + 2 * b2n r.stale + 4 * b2n (h.beyond id)) ++
  leBytes 4 (wrap 32 r.value) ++ leBytes 4 (wrap 32 r.max) ++ leBytes 4 (wrap 32 (h.warn id))

/-- The allotment a sensor concerns, which owns its island or package, 0xFF for a shared one. Ids 72 to 83 are the
memory-controller islands and 84 to 91 the host-port islands (R365). -/
def State.sensorAllot (s : State) (id : Nat) : Nat :=
  if id < 72 then (s.allotOfIsland (id / 2)).getD 0xFF
  else if id < 84 then (s.allotOfPkg (id - 72)).getD 0xFF
  else if id < 92 then (if (s.record (id - 84)).isSome then id - 84 else 0xFF)
  else if 96 ≤ id && id < 132 then (s.allotOfIsland (id - 96)).getD 0xFF
  else if 132 ≤ id && id < 144 then (s.allotOfPkg (id - 132)).getD 0xFF
  else 0xFF

/-- A fresh reading: the record, and a sensor alert when it crosses its threshold (log kind 6, latch 1), which the reading
before, judged when it came, was not beyond. -/
def State.reading (s : State) (id : Nat) (v : Int) : State :=
  let r := s.hm.sensor id
  let b := beyondWarn id v (s.hm.warn id)
  let r1 : Sensor := { valid := true, stale := false, value := v, max := max r.max v, missed := 0, told := b }
  let s1 := s.modHm fun h => { h with sensors := FMap.insert id r1 h.sensors }
  if b && !r.told then
    (s1.logRecord 6 (s.sensorAllot id)
      (leBytes 2 id ++ leBytes 2 0 ++ leBytes 4 (wrap 32 v) ++ leBytes 4 (wrap 32 (s.hm.warn id)) ++ leBytes 4 0)
      []).alertLatch 1
  else s1

/-- Where a reading goes besides its record: ISL_SENS, MEM_STAT.temp, throttling and CAL_STALE (R397, R409, R439,
R440). -/
def State.readingAt (s : State) (id : Nat) (v : Int) : State :=
  if id < 72 then
    let i := id / 2
    let s1 := s.modIsland i fun x =>
      if id % 2 = 0 then { x with temp0 := BitVec.ofInt 16 (v.tdiv 10) } else { x with temp1 := BitVec.ofInt 16 (v.tdiv 10) }
    (s1.throttleEval i (id % 2 = 1)).evalStale i
  else if 96 ≤ id && id < 132 then
    (s.modIsland (id - 96) fun x => { x with vmin := BitVec.ofInt 16 v }).evalStale (id - 96)
  else if 132 ≤ id && id < 144 then s.modPkg (id - 132) fun x => { x with temp := BitVec.ofInt 8 (v.tdiv 1000) }
  else s

/-- A period of a sensor passes without a reading: at the second in a row its record is stale. -/
def Hallmark.missReading (h : Hallmark) (id : Nat) : Hallmark :=
  let r := h.sensor id
  { h with sensors := FMap.insert id { r with missed := r.missed + 1, stale := r.stale || 1 ≤ r.missed } h.sensors }

/-- The telemetry of rail r is stale: its voltage and its current (R366). -/
def Hallmark.staleRail (h : Hallmark) (r : Nat) : Hallmark :=
  [160 + r, 176 + r].foldl (fun h id =>
    { h with sensors := FMap.insert id { h.sensor id with stale := true } h.sensors }) h

/-- SENSOR_SAMPLE: a sensor's period expires with a reading, or with none. A rail's telemetry comes by PMBus: with no
reading, its transaction has failed and used its retries, so it is stale and class 0x11 is reported (R366). The coolant
flow is the rate of FLOW_PULSE, whatever the operand (R372). -/
def execSensorSample (id : Nat) (reading : Option Int) (s : State) : Outcome State Fault Refusal :=
  s.onUnit (sensorId id) fun s =>
    if id = 153 then (if reading.isSome then s.reading 153 s.hm.flowRate.toNat else s.modHm fun h => h.missReading id)
    else match reading with
    | some v => (s.reading id v).readingAt id v
    | none =>
      let s1 := s.modHm fun h => h.missReading id
      if 160 ≤ id then (s1.modHm fun h => h.staleRail (id % 16)).reportFrom 0x11 57 0xFFFF none 0 else s1

/-- The trip limit of a sensor in m°C; none for a sensor without a comparator (R408 Table 5). -/
def tripLimit (id : Nat) : Option Int :=
  if id < 96 then some 115000 else if 132 ≤ id && id < 148 then some 105000 else none

/-- THERMAL_TRIP: a trip comparator fires (R410): THERMTRIP_N, the stop of every LOADED allotment, the descent of every
gated island, and a class 0x11 report. -/
def execThermalTrip (sensor : Nat) (s : State) : Outcome State Fault Refusal :=
  s.onUnit (tripLimit sensor).isSome fun s =>
    let s1 := s.modHm fun h => { h with thermtrip := true, trip := true }
    let s2 := s1.reportFrom 0x11 57 0xFFFF none 0
    forEach (List.range 8) s2 fun s p => s.stopLoaded p 0x1B sensor

/-- Island faults at once: every island halts, and then each allotment that holds one abandons its step. -/
def State.islandFaults (s : State) (isl : List Nat) : State :=
  let s1 := forEach isl s State.haltIsland
  forEach ((List.range 8).filter fun p => isl.any fun i => s.allotOfIsland i = some p) s1 State.abandonStep

/-- RAIL_FAULT: a regulator reports a fault (R367), which stands from then on: an island fault of each island a core rail
serves, or the stop of every LOADED allotment. -/
def execRailFault (rail : Nat) (s : State) : Outcome State Fault Refusal :=
  s.onUnit (rail < 16) fun s =>
    let s1 := (s.modHm fun h => { h with railFaults := setFld h.railFaults rail rail 1 }).alertLatch 3
    if 2 ≤ rail && rail ≤ 10 then
      let c := rail - 2
      let isl := (List.range 36).filter fun i => rowOf i / 2 = c / 3 && colOf i / 2 = c % 3
      s1.islandFaults isl
    else forEach (List.range 8) s1 fun s p => s.stopLoaded p 0x19 rail

/-! ### Input filters (R369–R371) -/

def Hallmark.filter (h : Hallmark) (n : Nat) : Filter := FMap.getD h.filters n (filterDefault n)
def State.modFilter (s : State) (n : Nat) (f : Filter → Filter) : State :=
  s.modHm fun h => { h with filters := FMap.insert n (f (h.filter n)) h.filters }

/-- A log record of kind 5. -/
def State.logInput (s : State) (n st : Nat) : State :=
  s.logRecord 5 0xFF (leBytes 1 n ++ leBytes 1 st ++ leBytes 2 (s.hm.filter n).chatter.toNat ++
    leBytes 2 s.hm.flowRate.toNat ++ List.replicate 10 0) []

/-- alert(n): the held-input latch, and for LEAK_N the leak latch too. -/
def State.inputAlert (s : State) (n : Nat) : State :=
  let s1 := ((s.modFilter n fun f => { f with alerted := true }).logInput n 2).alertLatch 0
  if n = 3 then s1.alertLatch 6 else s1

/-- Whether a floor that LEAK_N set may go: LEAK_N has left, and no allotment is STOPPED (R404). -/
def State.settleLeak (s : State) : State :=
  if !s.hm.leak || (s.hm.filter 3).active || (List.range 8).any fun p => (s.spine p).st = .stopped then s
  else
    let s1 := s.modHm fun h => { h with leak := false }
    if s1.hm.brake then s1 else s1.clearFloor

/-- A forced cut is asked of every LOADED allotment (R327, R329): without a CKPT section it is only reported, class 0x0E
(R328). -/
def State.forceCuts (s : State) : State :=
  forEach (List.range 8) s fun s p =>
    let sp := s.spine p
    match sp.st, sp.plan with
    | .loaded, some pl =>
      if pl.ckpt.isSome then s.modSpine p fun x => { x with ingot := { x.ingot with forcedPending := true } }
      else s.reportFrom 0x0E 58 0xFFFF (some p) 0
    | _, _ => s

/-- Every LOADED allotment abandons its step and stops on a fence request, class 0x0F (R327). -/
def State.fenceRequest (s : State) (detail : Nat) : State :=
  forEach (List.range 8) (s.reportFrom 0x0F 57 0xFFFF none 0) fun s p => s.stopLoaded p 0x15 detail

/-- act(n, enter) of R369 by Table 6. -/
def State.actEnter (s : State) (n : Nat) : State :=
  match n with
  | 0 =>
    let s1 := if s.hm.leak || s.hm.brake then s else s.setFloor
    (s1.modHm fun h => { h with brake := true }).reportFrom 0x11 57 0xFFFF none 0
  | 1 => s.forceCuts
  | 2 => s.fenceRequest 0
  | 3 =>
    let s1 := forEach (List.range 8) s fun s p => s.stopLoaded p 0x1A 0
    let s2 := if s1.hm.leak || s1.hm.brake then s1 else s1.setFloor
    s2.modHm fun h => { h with leak := true }
  | _ => s

/-- act(n, leave). -/
def State.actLeave (s : State) (n : Nat) : State :=
  match n with
  | 0 =>
    let s1 := s.modHm fun h => { h with brake := false }
    if s1.hm.leak then s1 else s1.clearFloor
  | 3 => s.settleLeak
  | _ => s

/-- The last sample calls for the change to ACTIVE. -/
def Filter.due (f : Filter) : Bool := !f.active && f.started && (f.chat || f.assert.toNat ≤ f.hi)

/-- The change of input n to ACTIVE, when its last sample calls for it. A checkpoint entry while FENCE_REQ_N or LEAK_N is
active is discarded (R371). -/
def State.enterOne (s : State) (n : Nat) : State :=
  let f := s.hm.filter n
  if n < 4 && f.due then
    let s1 := s.modFilter n fun f => { f with active := true, held := 0, alerted := false, chat := false }
    let s2 := if n = 1 && ((s.hm.filter 2).active || (s.hm.filter 3).active) then s1.logInput n 3
      else (s1.logInput n 1).actEnter n
    if f.alertAfter = 0 then s2.inputAlert n else s2
  else s

/-- The inputs in the order in which actions that meet apply: LEAK_N, FENCE_REQ_N, PWR_BRAKE_N, CKPT_REQ_N (R371). -/
def inputOrder : List Nat := [3, 2, 0, 1]

/-- The change of input n to INACTIVE after a full calm release period, which ends the activation and its alert. -/
def State.leaveOne (s : State) (n : Nat) : State :=
  let f := s.hm.filter n
  if n < 4 && f.active && f.release.toNat ≤ f.lo && f.release.toNat ≤ f.calm then
    ((s.modFilter n fun f => { f with active := false, chat := false, alerted := false }).logInput n 0).actLeave n
  else s

/-- The changes due at the inputs that come before input n in the order of R371. -/
def State.changesBefore (s : State) (n : Nat) : State :=
  forEach (inputOrder.takeWhile (· ≠ n)) s fun s k => (s.enterOne k).leaveOne k

/-- The entry of input n, after the changes due at inputs that come before it (R371). -/
def State.filterEnter (s : State) (n : Nat) : State := (s.changesBefore n).enterOne n

/-- The return of input n to INACTIVE, after the changes due at inputs that come before it (R371). -/
def State.filterLeave (s : State) (n : Nat) : State := (s.changesBefore n).leaveOne n

/-- INPUT_FILTER_ENTER. -/
def execInputFilterEnter (n : Nat) (s : State) : Outcome State Fault Refusal :=
  s.onUnit (n < 4) fun s => s.filterEnter n

/-- INPUT_HELD_ALERT: an input has been held active for alert_after. -/
def execInputHeldAlert (n : Nat) (s : State) : Outcome State Fault Refusal :=
  s.onUnit (n < 4) fun s =>
    let f := s.hm.filter n
    if f.active && !f.alerted && f.alertAfter ≠ 0 && f.alertAfter ≠ 0xFFFF && f.alertAfter.toNat * 10000 ≤ f.held then
      s.inputAlert n
    else s

/-- One sample of an input (R369). A change of state that the sample before it called for has come by now. -/
def Filter.sample (f : Filter) (raw : Bool) : Filter :=
  let f := if f.started then f else
    { f with started := true, prev := raw, sinceEdge := 2 ^ 40, active := false, hi := 0, lo := 0, held := 0,
             calm := f.release.toNat }
  let since := f.sinceEdge + 1
  let edge := raw != f.prev
  let chat := edge && decide (since < f.minPulse.toNat)
  let calm := if chat then 0 else f.calm + 1
  let lo := if raw then 0 else f.lo + 1
  { f with
    prev := raw
    sinceEdge := if edge then 0 else since
    chatter := if chat then satAdd f.chatter 1 else f.chatter
    chat := chat
    calm := calm
    hi := if raw then f.hi + 1 else 0
    lo := lo
    held := if f.active && !(f.release.toNat ≤ lo && f.release.toNat ≤ calm) then f.held + 1 else f.held }

/-- One sample of FLOW_PULSE (R372): a level counts once it has held for min_pulse, so that a pulse with a shorter low or
high part is ignored. Whether a rising edge is counted. -/
def Filter.pulse (f : Filter) (low : Bool) : Filter × Bool :=
  let f := if f.started then f else { f with started := true, prev := low, hi := 0, lo := 0 }
  let hi := if low then f.hi + 1 else 0
  let lo := if low then 0 else f.lo + 1
  let now := if low && f.minPulse.toNat ≤ hi then true else if !low && f.minPulse.toNat ≤ lo then false else f.prev
  ({ f with hi := hi, lo := lo, prev := now }, f.prev && !now)

/-- A sample of an input's pin; raw is 1 when the pin is low. A change that the sample before called for comes first; of
FLOW_PULSE the rising edges are counted (R372). -/
def State.inputSample (s : State) (n : Nat) (low : Bool) : State :=
  if n = 4 then
    let r := (s.hm.filter 4).pulse low
    (s.modFilter 4 fun _ => r.1).modHm fun h => { h with flowCount := h.flowCount + b2n r.2 }
  else ((s.filterEnter n).filterLeave n).modFilter n fun f => f.sample low

/-- FLOW_WINDOW: the end of a 1 s window: its rising edges give the rate, which sensor 153 reads (R365, R372). The
window brings nothing of its own. -/
def execFlowWindow (_window : Unit) (s : State) : Outcome State Fault Refusal :=
  s.onUnit true fun s =>
    let rate := min 65535 (s.hm.flowCount * s.hm.ulPulse.toNat * 60 / 1000)
    let low := decide (rate < s.hm.flowMin.toNat)
    let ms := if low then s.hm.lowFlowMs + 1000 else 0
    let after := (s.hm.filter 4).alertAfter
    let s1 := (s.modHm fun h => { h with flowRate := BitVec.ofNat 16 rate, lowFlowMs := ms, flowCount := 0 }).reading 153 rate
    if low && after ≠ 0xFFFF && after.toNat ≤ ms then s1.alertLatch 2 else s1

/-! ### The pins of J4 that the module drives (R373, R451) -/

/-- PRESENT_N is held low by a strap; ALERT_N is low while a latch is set, and THERMTRIP_N from a trip until input power is
removed; TDO is driven while 1149.1 is open, and otherwise at high impedance. -/
def State.presentN (_ : State) : Bool := false
def State.alertN (s : State) : Bool := decide (s.hm.alert = 0)
def State.thermtripN (s : State) : Bool := !s.hm.thermtrip
def State.tdoDriven (s : State) : Bool := s.hm.jtagOpen

/-! ### The log (R374, R375) -/

/-- Writes a record at HM_LOG_HEAD. Its time is the count since input power. -/
def State.putLog (s : State) (r : LogRec) : State :=
  s.modHm fun h => { h with
    log := FMap.insert (h.logHead % 16384) { r with seq := h.logHead, time := s.ticks - h.cntBase } h.log
    logHead := h.logHead + 1 }

/-- The allot field of a report's log record: the allotment of the reporting island, 0xFF for the shared islands 56 to
59, which no allotment owns. -/
def ErrReport.logAllot (e : ErrReport) : Nat := if e.island < 56 then e.allot else 0xFF

/-- The record of a coalescing entry: kind 1 for a single report, kind 2 otherwise. -/
def Coalesce.record (c : Coalesce) : LogRec :=
  let one := c.count = 1 && c.ovf = 0
  { seq := 0, time := 0, kind := if one then 1 else 2, allot := c.first.logAllot, coalesced := !one, count := c.count
    ovf := c.ovf, body := c.first.bytes, body2 := if one then [] else c.last.bytes }

/-- The intake takes the first record of the hardware queue. -/
def State.takeQueued (s : State) : State :=
  match s.hm.hwQueue with
  | r :: t => (s.modHm fun h => { h with hwQueue := t }).putLog r
  | [] => s

/-- What waits at the intake, by its place in a round of turns: port and class, and the hardware queue after the last
port. -/
def Hallmark.waiting (h : Hallmark) : List (Nat × Nat) :=
  (h.ports.flatMap fun (x : Nat × FMap Coalesce) => x.2.map fun y => (x.1, y.1)) ++
    (if h.hwQueue = [] then [] else [(60, 0)])

/-- The first place at or after the one the turns have reached, around. -/
def Hallmark.nextTurn (h : Hallmark) : Option (Nat × Nat) :=
  (h.waiting.find? fun x => h.intakeAt.1 < x.1 || (h.intakeAt.1 = x.1 && h.intakeAt.2 ≤ x.2)).or h.waiting.head?

/-- LOG_INTAKE: one record. The ports have turns by ascending clock-island index, and in its turn a port delivers its
entries in ascending class; the hardware queue has the turn after the last port (R314, R375). -/
def execLogIntake (s : State) : Outcome State Fault Refusal :=
  s.onUnit true fun s =>
    match s.hm.nextTurn with
    | none => s
    | some (k, cls) =>
      let s1 := s.modHm fun h => { h with intakeAt := (k, cls + 1) }
      let port := FMap.getD s.hm.ports k []
      match FMap.find cls port with
      | some c =>
        let rest := FMap.erase cls port
        (s1.modHm fun h => { h with
          ports := if rest = [] then FMap.erase k h.ports else FMap.insert k rest h.ports }).putLog c.record
      | none => s1.takeQueued

/-- A log record of 64 bytes (Table 8). -/
def LogRec.bytes (r : LogRec) : List Byte :=
  leBytes 8 r.seq ++ leBytes 8 r.time.toNat ++ leBytes 1 r.kind ++ leBytes 1 r.allot ++ leBytes 2 (b2n r.coalesced) ++
  leBytes 4 r.count ++ leBytes 4 r.ovf ++ leBytes 4 0 ++ slice r.body 0 16 ++ slice r.body2 0 16

end Sys2Proof.Machine
end

