-- ==== Sys2Proof/Machine/Hmp.lean ====
section
/-! DEFINITION. The Hallmark Management Protocol (R376–R379), firmware update (R380–R383), attestation (R384–R386), the
allotment table (R347–R350), and the mailbox partitions (R388). -/

namespace Sys2Proof.Machine

open Host (Outcome)

/-! ### Firmware images (R380 Table 14) -/

/-- The header of an image, its length, the fields that others read, its bytes, and the SHA-512 of the whole. -/
def FwImage.header (x : FwImage) : List Byte := Memory.read x.data 0 512
def FwImage.length (x : FwImage) : Nat := 512 + leAt x.header 0x00C 4
def FwImage.svn (x : FwImage) : Nat := leAt x.header 6 2
def FwImage.version (x : FwImage) : Word32 := BitVec.ofNat 32 (leAt x.header 8 4)
def FwImage.bytes (x : FwImage) : List Byte := Memory.read x.data 0 x.length
def FwImage.digest (x : FwImage) : List Byte := sha512 x.bytes

/-- The SHA-512 of a firmware key equals the fused hash. -/
def Hallmark.firmwareKey (m : Hallmark) (key : List Byte) : Bool := sha512 key = leBytes 64 m.fwKeyHash.toNat

/-- What verification demands of an image, of the staged one as of the one in flash (R380, R383). -/
def Hallmark.imageOk (m : Hallmark) (x : FwImage) : Bool :=
  let l := x.header
  let signer := slice l 0x080 133
  x.length ≤ 0x600000 && leAt l 0 4 = 0x4D484657 && leAt l 4 1 = 1 && leAt l 5 1 = 9 && m.svn.toNat ≤ x.svn &&
  m.firmwareKey signer && ecVerify signer (l.take 0x108) (slice l 0x108 132) &&
  sha512 (Memory.read x.data 512 (x.length - 512)) = slice l 0x040 64

/-! ### Keys of the device (R384) -/

/-- The device secret as bytes. -/
def Hallmark.secret (h : Hallmark) : List Byte := leBytes 64 h.deviceSecret.toNat

/-- The secret half of a key pair, from the device secret, a label and a context: 74 bytes, so more than 64 bits
beyond the group's order, reduced into it. -/
def Hallmark.deriveKey (h : Hallmark) (label context : List Byte) : Nat :=
  ofBe (kdf h.secret label context 74) % (ecN - 1) + 1

/-- "identity" and "attest". -/
def identityLabel : List Byte := [0x69, 0x64, 0x65, 0x6E, 0x74, 0x69, 0x74, 0x79]
def attestLabel : List Byte := [0x61, 0x74, 0x74, 0x65, 0x73, 0x74]

def Hallmark.identityKey (h : Hallmark) : Nat := h.deriveKey identityLabel []

/-- The attestation key: the digest of the running firmware image and its svn are the context. -/
def Hallmark.attestKey (h : Hallmark) : Nat :=
  h.deriveKey attestLabel (h.running.digest ++ leBytes 2 h.running.svn)

/-- A signature that the crypto engine makes. -/
def signBytes (key : Nat) (msg : List Byte) : List Byte := ecSign key (Config.signSecret msg) msg

/-- The certificate of the attestation key that the identity key signs at each start: the public key and the firmware
digest, then the signature. -/
def Hallmark.certify (h : Hallmark) : List Byte :=
  let c := ecPublic h.attestKey ++ h.running.digest
  c ++ signBytes h.identityKey c

/-- Certificate slot 0 (R385). -/
def Hallmark.chain (h : Hallmark) : List Byte := h.certChain ++ h.attCert

/-! ### Requests and responses (R377, R378) -/

def Hallmark.key (h : Hallmark) (k : Nat) : KeySlot := FMap.getD h.keys k {}
def Hallmark.setKey (h : Hallmark) (k : Nat) (v : KeySlot) : Hallmark := { h with keys := FMap.insert k v h.keys }

/-- The slot's nonce is retired and the next one drawn (R378). -/
def Hallmark.drawNonce (h : Hallmark) (k : Nat) : Hallmark :=
  { h.setKey k { h.key k with nonce := Config.freshNonce h.drbg } with drbg := h.drbg + 1 }

/-- The nonces of all slots drawn anew (R414). -/
def Hallmark.drawAll (h : Hallmark) : Hallmark := (List.range 4).foldl (fun h k => h.drawNonce k) h

/-- What a command answers: status, body and the state it leaves. -/
structure Answer where
  s : State
  status : Nat := 0
  body : List Byte := []

/-- The bytes of a message before its signature (Table 10). -/
def hmpBytes (type cmd : Nat) (tag : Word32) (slot : Byte) (status : Nat) (nonce : BitVec 256) (body : List Byte) :
    List Byte :=
  leBytes 4 0x504D484E ++ leBytes 1 1 ++ leBytes 1 type ++ leBytes 2 cmd ++ leBytes 4 tag.toNat ++ [slot] ++
  leBytes 1 status ++ leBytes 2 body.length ++ leBytes 32 nonce.toNat ++ body

def signedBytes (h : Hmp) (cmd : Nat) (body : List Byte) : List Byte :=
  hmpBytes 0 cmd h.tag h.slot 0 h.nonce body

/-- The datagram of a request; an unsigned one carries no signature. -/
def datagram (h : Hmp) (cmd : Nat) (body : List Byte) : List Byte :=
  signedBytes h cmd body ++ (if h.slot = 0xFF then [] else leBytes 132 h.sig.toNat)

/-- Whether the key of the request's slot verifies its signature. -/
def Hallmark.verifies (m : Hallmark) (h : Hmp) (cmd : Nat) (body : List Byte) : Bool :=
  match (m.key h.slot.toNat).key with
  | some k => h.slot.toNat < 4 && ecVerify (leBytes 133 k.toNat) (signedBytes h cmd body) (leBytes 132 h.sig.toNat)
  | none => false

/-- Sends a response: the command, the tag and slot echoed, the slot's nonce, and a signature under a key. -/
def State.respond (key : Nat) (h : Hmp) (cmd : Nat) (a : Answer) : State :=
  a.s.modHm fun m =>
    let nonce := if h.slot.toNat < 4 then (m.key h.slot.toNat).nonce else 0
    { m with resp := some {
      cmd := cmd, tag := h.tag, slot := h.slot, status := a.status, nonce := nonce, body := a.body
      sig := signBytes key (hmpBytes 1 cmd h.tag h.slot a.status nonce a.body) } }

/-- The audit record of a signed request (log kind 7). -/
def State.audit (s : State) (h : Hmp) (cmd status : Nat) : State :=
  s.logRecord 7 0xFF (leBytes 2 cmd ++ leBytes 1 h.slot.toNat ++ leBytes 1 status ++ leBytes 4 h.tag.toNat ++
    leBytes 8 (h.nonce.toNat % 2 ^ 64)) []

/-- The processor restarts after FW_ACTIVATE or a failed self-test, for at most 500 ms (R381). -/
def State.restarting (s : State) : Bool := decide (s.ticks.toNat < s.hm.answerAt.toNat)

/-- HM_STAT.fw_state (R387 Table 17). -/
def State.fwStateNow (s : State) : BitVec 8 := if s.restarting then 3 else s.hm.fwState

/-- When the processor has restarted that now restarts. -/
def State.restartEnd (s : State) : Word := s.ticks + BitVec.ofNat 64 (min Config.restartCycles 125000000)

/-- Requests go unanswered while the firmware restarts (R381), and from a Hallmark reset until its start ends, which waits
while a step hangs (R414). -/
def State.unanswered (s : State) : Bool :=
  s.hm.fwState = 3 || s.restarting || (s.boot.kind = 3 && s.boot.at_.isSome)

/-- What a request brings (R378): nothing while requests go unanswered; the answer of the recovery loader, unsigned, for
the commands `rec` marks (R383); a refusal; or the answer of the command itself. need is the role of Table 11, none for
an unsigned command. The flag says that it completed with status 0. -/
def State.answerReq (s : State) (h : Hmp) (cmd : Nat) (body : List Byte) (need : Option Nat) (rec : Bool)
    (f : State → Answer) : State × Bool :=
  let m := s.hm
  let k := h.slot.toNat
  let refuse (s : State) (status : Nat) : State × Bool := ((State.respond m.attestKey h cmd { s, status }).audit h cmd status, false)
  if s.unanswered then (s, false)
  else if m.fwState = 2 then (if rec then (State.respond m.attestKey h cmd (f s), (f s).status = 0) else (s, false))
  else if h.slot = 0xFF then
    (if need.isNone then (State.respond m.attestKey h cmd (f s), (f s).status = 0)
     else (State.respond m.attestKey h cmd { s, status := 0x02 }, false))
  else if !m.verifies h cmd body then refuse s 0x02
  else if h.nonce ≠ (m.key k).nonce then refuse s 0x03
  else
    let s1 := s.modHm fun m => m.drawNonce k
    if (m.key k).role < need.getD 0 then refuse s1 0x04
    else
      let a := f s1
      ((State.respond m.attestKey h cmd a).audit h cmd a.status, a.status = 0)

/-- The role a command needs; none for an unsigned command and for one Table 11 does not have. -/
def cmdRole (cmd : Nat) : Option Nat :=
  if cmd = 0x03 || cmd = 0x04 || cmd = 0x10 then some 0
  else if cmd = 0x05 || cmd = 0x12 || cmd = 0x13 then some 1
  else if cmd = 0x11 || (0x20 ≤ cmd && cmd ≤ 0x23) || (0x30 ≤ cmd && cmd ≤ 0x33) || cmd = 0x40 || cmd = 0x41 ||
    cmd = 0x60 || cmd = 0x70 then some 2
  else none

/-- Whether a body has the length and, of a RESET, the kind that its command takes (Table 11). -/
def bodyFits (cmd : Nat) (body : List Byte) : Bool :=
  let n := body.length
  match cmd with
  | 0x01 | 0x05 | 0x10 | 0x12 | 0x13 | 0x31 | 0x32 | 0x33 => n = 0
  | 0x02 | 0x41 => n = 1
  | 0x03 => n = 4
  | 0x04 => n = 10
  | 0x11 => n = 256
  | 0x20 => n = 3
  | 0x21 => n = 13
  | 0x22 => n = 23
  | 0x23 => n = 6
  | 0x30 => 8 ≤ n && n ≤ 1032
  | 0x40 => n = 135
  | 0x50 => 4 ≤ n
  | 0x60 => n ≤ 512
  | 0x70 => n = 1 && 1 ≤ body.headD 0 && body.headD 0 ≤ 3
  | _ => false

/-- The request a datagram carries: its header, command and body. -/
def parseHmp (l : List Byte) : Hmp × Nat × List Byte :=
  let n := leAt l 0x0E 2
  ({ tag := BitVec.ofNat 32 (leAt l 8 4), slot := l.getD 0x0C 0, nonce := BitVec.ofNat 256 (leAt l 0x10 32)
     sig := BitVec.ofNat 1056 (leAt l (0x30 + n) 132) }, leAt l 6 2, slice l 0x30 n)

/-- A datagram whose version, type or status is none of a request's (Table 10). -/
def badHeader (l : List Byte) : Bool := l.getD 4 0 ≠ 1 || l.getD 5 0 ≠ 0 || l.getD 0x0D 0 ≠ 0

/-- A datagram with an unknown command or a malformed body, which completes with status 0x01. -/
def malformed (l : List Byte) : Bool :=
  let (_, cmd, body) := parseHmp l
  badHeader l || !bodyFits cmd body

/-- The answer to a malformed request: 0x01, which one with a header of its own gets before its signature is looked at
(DESIGN CHOICE, log entry 79). -/
def State.answerBad (s : State) (l : List Byte) : State :=
  let (h, cmd, body) := parseHmp l
  if badHeader l then
    (if s.unanswered || s.hm.fwState = 2 then s else State.respond s.hm.attestKey h cmd { s, status := 0x01 })
  else (s.answerReq h cmd body (cmdRole cmd) false fun s => { s, status := 0x01 }).1

/-- Answers the malformed requests at the front of the queue, of which n wait. -/
def State.answerMalformed : Nat → State → State
  | 0, s => s
  | n + 1, s => match s.hm.netQueue with
    | l :: t =>
      if malformed l then State.answerMalformed n ((s.modHm fun m => { m with netQueue := t }).answerBad l) else s
    | [] => s

/-- A datagram joins the queue of 16, or is dropped and counted (R377). -/
def Hallmark.enqueue (m : Hallmark) (l : List Byte) : Hallmark :=
  if m.netQueue.length < 16 then { m with netQueue := m.netQueue ++ [l] } else { m with netDrop := satAdd m.netDrop 1 }

/-- Serves a request, one at a time in arrival order: it stands at the front of the queue, or arrives while none waits.
Otherwise it arrives behind the waiting ones. None arrives while the management port is down (R418). -/
def State.serveDone (s : State) (h : Hmp) (cmd : Nat) (body : List Byte) (need : Option Nat) (rec : Bool)
    (f : State → Answer) : State × Bool :=
  if !s.hm.portUp then (s, false) else
  match s.hm.netQueue with
  | [] => s.answerReq h cmd body need rec f
  | l :: t =>
    if l = datagram h cmd body then
      let r := (s.modHm fun m => { m with netQueue := t }).answerReq h cmd body need rec f
      (r.1.answerMalformed t.length, r.2)
    else (s.modHm fun m => m.enqueue (datagram h cmd body), false)

/-- The state after a request is served. -/
def State.serve (s : State) (h : Hmp) (cmd : Nat) (body : List Byte) (need : Option Nat) (rec : Bool)
    (f : State → Answer) : State :=
  (s.serveDone h cmd body need rec f).1

/-! ### Network frames (R376, R377) -/

/-- The IPv6 link-local address that the MAC address gives (EUI-64). -/
def Hallmark.linkLocal (h : Hallmark) : BitVec 128 :=
  let m (i : Nat) : Byte := (leBytes 6 h.macAddr.toNat).getD i 0
  BitVec.ofNat 128 (ofBe ([0xFE, 0x80, 0, 0, 0, 0, 0, 0] ++ [m 0 ^^^ 2, m 1, m 2, 0xFF, 0xFE, m 3, m 4, m 5]))

/-- An address of the port: the configured ones, where there are, and the link-local one. -/
def Hallmark.ownAddr (m : Hallmark) : IpAddr → Bool
  | .v4 a => a ≠ 0 && a = m.net.ipv4
  | .v6 a => a = m.linkLocal || (a ≠ 0 && a = m.net.ipv6)

/-- A datagram that Hallmark takes as an HMP request: its magic, type and length are right (R377). -/
def hmpDatagram (l : List Byte) : Bool :=
  0x30 ≤ l.length && l.length ≤ 1452 && leAt l 0 4 = 0x504D484E && l.getD 5 0 ≠ 1 &&
  l.length = 0x30 + leAt l 0x0E 2 + (if l.getD 0x0C 0 = 0xFF then 0 else 132)

/-- NETWORK_FRAME: ARP, Neighbor Discovery and echo requests for an address of the port are answered, an HMP datagram
joins the queue, and everything else is silently dropped. -/
def execNetworkFrame (f : Frame) (s : State) : Outcome State Fault Refusal :=
  s.onUnit true fun s =>
    if !s.hm.portUp then s else
    match f with
    | .resolve a =>
      if s.unanswered || !s.hm.ownAddr a then s
      else s.modHm fun m => { m with netAnswer := some (.resolved a m.macAddr) }
    | .echo a data =>
      if s.unanswered || !s.hm.ownAddr a then s
      else s.modHm fun m => { m with netAnswer := some (.echoed a data) }
    | .udp a port l =>
      if !s.hm.ownAddr a || port ≠ s.hm.net.udpPort.toNat || !hmpDatagram l then s
      else (s.modHm fun m => m.enqueue l).answerMalformed 1
    | .fragment | .other => s

/-! ### Identity, sensors and the log -/

/-- "NMF-FT9-864-L", zero-padded to 16 bytes (Table 13). -/
def orderCode : List Byte := [0x4E, 0x4D, 0x46, 0x2D, 0x46, 0x54, 0x39, 0x2D, 0x38, 0x36, 0x34, 0x2D, 0x4C, 0, 0, 0]

/-- DEV_REV (R16). -/
def devRev : Word := 0x09200000

/-- Allotment state codes of PORT_STAT. -/
def AllotState.code : AllotState → Nat
  | .unbound => 0
  | .idle => 1
  | .loaded => 2
  | .stopped => 3

/-- The identity record (Table 13). -/
def State.identBody (s : State) : List Byte :=
  let good := (List.range 576).countP fun x => !s.boot.badSites.contains x
  let fenced := (List.range 576).countP fun x => (s.core x).fenced
  let states := (List.range 8).foldl (fun a p => a + (s.spine p).st.code * 4 ^ p) 0
  leBytes 4 devRev.toNat ++ leBytes 2 good ++ leBytes 2 fenced ++ orderCode ++ leBytes 16 s.hm.serial.toNat ++
  leBytes 4 s.hm.running.version.toNat ++ leBytes 1 s.hm.svn.toNat ++ leBytes 1 s.fwStateNow.toNat ++
  leBytes 2 states ++ leBytes 6 s.hm.macAddr.toNat ++ List.replicate 10 0

/-- READ_SENSORS: at most 64 records from an id on. -/
def State.sensorsBody (s : State) (first count : Nat) : Nat × List Byte :=
  if 64 < count then (0x01, [])
  else (0, (((List.range count).map (first + ·)).filter sensorId).flatMap s.hm.sensorBytes)

/-- READ_LOG: at most 19 records from seq on; of a partition, only those it may see (R388). -/
def State.logBody (s : State) (seq count : Nat) (part : Option Nat) : Nat × List Byte :=
  let oldest := s.hm.logHead - 16384
  if 19 < count then (0x01, [])
  else if seq < oldest then (0x08, leBytes 8 oldest)
  else
    let recs := ((List.range count).filterMap fun i =>
      if seq + i < s.hm.logHead then FMap.find ((seq + i) % 16384) s.hm.log else none).filter fun r =>
        match part with
        | some p => r.allot = p || r.allot = 0xFF
        | none => true
    (0, leBytes 8 seq ++ leBytes 8 recs.length ++ recs.flatMap LogRec.bytes)

def execIdent (h : Hmp) (s : State) : Outcome State Fault Refusal :=
  s.onUnit true fun s => s.serve h 0x0001 [] none true fun s => { s, body := s.identBody }

def execGetNonce (h : Hmp) (slot : Nat) (s : State) : Outcome State Fault Refusal :=
  s.onUnit true fun s => s.serve h 0x0002 (leBytes 1 slot) none true fun s =>
    if 3 < slot then { s, status := 0x01 } else { s, body := leBytes 32 (s.hm.key slot).nonce.toNat }

def execReadSensors (h : Hmp) (first count : Nat) (s : State) : Outcome State Fault Refusal :=
  s.onUnit true fun s => s.serve h 0x0003 (leBytes 2 first ++ leBytes 2 count) (some 0) false fun s =>
    let (st, b) := s.sensorsBody first count
    { s, status := st, body := b }

def execReadLog (h : Hmp) (seq count : Nat) (s : State) : Outcome State Fault Refusal :=
  s.onUnit true fun s => s.serve h 0x0004 (leBytes 8 seq ++ leBytes 2 count) (some 0) false fun s =>
    let (st, b) := s.logBody seq count none
    { s, status := st, body := b }

/-- Latches whose condition still stands (R373). -/
def State.standing (s : State) (b : Nat) : Bool :=
  match b with
  | 0 => (List.range 4).any fun n => (s.hm.filter n).active && (s.hm.filter n).alerted
  | 1 => s.hm.sensors.any fun x => s.hm.beyond x.1
  | 2 => decide (0 < s.hm.lowFlowMs)
  | 3 => s.hm.railFaults ≠ 0
  | 5 => s.hm.fwState = 2
  | 6 => (s.hm.filter 3).active
  | _ => false

def execAlertClear (h : Hmp) (s : State) : Outcome State Fault Refusal :=
  s.onUnit true fun s => s.serve h 0x0005 [] (some 1) false fun s =>
    { s := s.modHm fun m => { m with alert := (List.range 8).foldl (fun a b =>
        if s.standing b then a else setFld a b b 0) m.alert } }

/-! ### The allotment table (R347–R349) -/

/-- A record of 32 bytes (Table 2). -/
def AllotRec.bytes (r : AllotRec) : List Byte :=
  leBytes 1 r.port ++ leBytes 1 (b2n r.valid + 2 * b2n r.interleave + 4 * r.rsv.flags.toNat) ++
  leBytes 1 (r.row0 + 8 * b2n r.rsv.rows3 + 16 * r.row1 + 128 * b2n r.rsv.rows7) ++
  leBytes 1 (r.col0 + 8 * b2n r.rsv.cols3 + 16 * r.col1 + 128 * b2n r.rsv.cols7) ++ leBytes 2 r.packages.toNat ++ leBytes 2 r.appCores.toNat ++
  leBytes 2 r.l2Ways.toNat ++ leBytes 2 r.slotFirst ++ leBytes 2 r.slotCount ++ leBytes 1 r.apLog2 ++ [r.rsv.byte0F] ++
  leBytes 8 r.osBase ++ leBytes 4 r.osLen ++ leBytes 4 r.rsv.word1C.toNat

def execGetAllot (h : Hmp) (s : State) : Outcome State Fault Refusal :=
  s.onUnit true fun s => s.serve h 0x0010 [] (some 0) false fun s => { s, body := s.hm.table.flatMap AllotRec.bytes }

/-- The island a package attaches at (R348). -/
def pkgIsland (n : Nat) : Nat := if n < 6 then n else 24 + n

def recShared (f : AllotRec → AllotRec → Bool) (l : List AllotRec) : Option Nat :=
  (List.range l.length).findSome? fun i => match l[i]? with
    | none => none
    | some r => if (l.take i).any fun q => f q r then some r.port else none

/-- Whether the region [a, a + n) lies in the packages of a record. -/
def inPackages (r : AllotRec) (a n : Nat) : Bool :=
  match region a, region (a + n - 1) with
  | .lpddr x, .lpddr y => 0 < n && (List.range (y - x + 1)).all fun i => r.packages.getLsbD (x + i)
  | _, _ => false

/-- The physical ranges of a device range [a, a + n) of allotment r (R29): with interleave, one run of blocks in each
of its packages. -/
def physRangesOf (r : AllotRec) (a n : Nat) : List (Nat × Nat) :=
  if !r.interleave then [(a, n)]
  else
    let ps := r.pkgs
    let k := ps.length
    let o0 := ps.findIdx (· = lpPkg a) * 0x1200000000 + (a - lpBase (lpPkg a))
    let o1 := o0 + n - 1
    let b0 := o0 / 4096
    let b1 := o1 / 4096
    (List.range k).filterMap fun m =>
      let first := b0 + (m + k - b0 % k) % k
      let last := b1 - (b1 % k + k - m) % k
      if b1 < first then none
      else
        let lo := first / k * 4096 + (if first = b0 then o0 % 4096 else 0)
        let hi := last / k * 4096 + (if last = b1 then o1 % 4096 + 1 else 4096)
        some (lpBase (ps.getD m 0) + lo, hi - lo)

/-- The Ingot areas of the plan loaded in an allotment (R328). -/
def State.ingotAreas (s : State) (p : Nat) : List (Nat × Nat) :=
  match (s.spine p).plan.bind (·.ckpt), s.record p with
  | some ck, some r => r.pkgs.map fun n => (lpBase n + ck.ingotOff, ck.ingotLen)
  | _, _ => []

/-- The first failing check of Table 3 with its port. -/
def State.tableCheck (s : State) (t : List AllotRec) : Option (Nat × Nat) :=
  let v := t.filter fun r => r.valid
  let bad (code : Nat) (f : AllotRec → Bool) : Option (Nat × Nat) := (v.find? f).map fun r => (code, r.port)
  let dup (code : Nat) (f : AllotRec → AllotRec → Bool) : Option (Nat × Nat) :=
    (recShared f v).map fun p => (code, p)
  let c1 := bad 1 fun r => r.rsv ≠ {} || 7 < r.port || r.row1 < r.row0 || r.col1 < r.col0 || 5 < r.row1 || 5 < r.col1 ||
    r.slotCount % 2 = 1 || r.slotCount < 2 || 256 < r.slotCount || r.apLog2 < 30 || 39 < r.apLog2 ||
    fld r.packages 15 12 ≠ 0
  let c2 := dup 2 fun q r => q.port = r.port
  let c3 := dup 3 fun q r => q.islands.any r.hasIsland
  let c4 := bad 4 fun r => r.packages = 0 || r.pkgs.any fun n => !r.hasIsland (pkgIsland n)
  let c5 := (dup 5 fun q r => q.packages &&& r.packages ≠ 0 || q.appCores &&& r.appCores ≠ 0 || q.l2Ways &&& r.l2Ways ≠ 0).or
    (bad 5 fun r => r.appCores = 0 || r.l2Ways = 0)
  let c6 := (dup 6 fun q r => q.slotFirst < r.slotFirst + r.slotCount && r.slotFirst < q.slotFirst + q.slotCount).or
    (bad 6 fun r => 256 < r.slotFirst + r.slotCount)
  let c7 := bad 7 fun r => !inPackages r r.osBase r.osLen ||
    ((List.range 8).any fun p => (s.ingotAreas p).any fun a => (physRangesOf r r.osBase r.osLen).any (overlaps a))
  let c8 := (List.range 8).findSome? fun p =>
    let new := v.find? fun r => r.port = p
    let st := (s.spine p).st
    if (st = .loaded || st = .stopped) && new ≠ s.record p then some (8, p) else none
  c1.or (c2.or (c3.or (c4.or (c5.or (c6.or (c7.or c8))))))

/-- A reset of a port's function: queues disabled, and the window table, APT_BASE and MSI-X state at reset (R346). -/
def Port.cleared (po : Port) : Port :=
  { po with
    spdmSession := false
    qs := po.qs.map fun (x : Nat × QueuePair) => (x.1, { x.2 with
      sqCfg := setFld x.2.sqCfg 0 0 0, cqCfg := setFld x.2.cqCfg 0 0 0 })
    ingEn := false, ingProd := 0, ingCons := 0, lenErr := false, ingFault := false
    aptBase := 0, win := [], msix := [], pba := [] }

/-- The link goes down, and the port keeps nothing of the old allotment (R346, R349). -/
def Port.down (po : Port) : Port := { po.cleared with rate := 0, width := 0, flit := false, d3hot := false }

/-- Puts a table in force (R349, R350): a changed record gives an idle allotment, and none an unbound one. Its partition of
the spine starts from reset, so that no cut or count of the old allotment can be had (R362: DESIGN CHOICE, log entry 79). -/
def State.applyTable (s : State) (t : List AllotRec) : State :=
  let old := s.record
  let s1 := s.modHm fun m => { m with inForce := t.filter fun r => r.valid }
  forEach (List.range 8) s1 fun s p =>
    if s.record p = old p then s
    else
      let st : AllotState := if (s.record p).isSome then .idle else .unbound
      (s.modSpine p fun _ => { st := st }).modPort p Port.down

/-- SET_ALLOT: the checks of Table 3, then the new table (R348, R349). The change, or its refusal, is logged (kind
10). -/
def execSetAllot (h : Hmp) (table : List AllotRec) (s : State) : Outcome State Fault Refusal :=
  s.onUnit true fun s => s.serve h 0x0011 (table.flatMap AllotRec.bytes) (some 2) false fun s =>
    if table.length ≠ 8 then { s, status := 0x01 }
    else match s.tableCheck table with
    | some (code, port) =>
      { s := s.logRecord 10 0xFF (leBytes 1 code ++ leBytes 1 0 ++ List.replicate 14 0) []
        status := 0x06, body := leBytes 1 code ++ leBytes 1 port }
    | none =>
      let s1 := (s.modHm fun m => { m with table := table }).applyTable table
      let changed := (List.range 8).foldl (fun a p => if s1.record p = s.record p then a else a + 2 ^ p) 0
      { s := s1.logRecord 10 0xFF (leBytes 1 0 ++ leBytes 1 changed ++ List.replicate 14 0) [] }

/-! ### Commands to the allotments and the supply -/

def execCheckpoint (h : Hmp) (s : State) : Outcome State Fault Refusal :=
  s.onUnit true fun s => s.serve h 0x0012 [] (some 1) false fun s => { s := s.forceCuts }

def execFence (h : Hmp) (s : State) : Outcome State Fault Refusal :=
  s.onUnit true fun s => s.serve h 0x0013 [] (some 1) false fun s => { s := s.fenceRequest 1 }

/-- Every allotment is UNBOUND or IDLE. -/
def State.allIdle (s : State) : Bool :=
  (List.range 8).all fun p => (s.spine p).st = .unbound || (s.spine p).st = .idle

/-- SET_ENVELOPE: the slew limit and the brake floor, within the limits of R368 and R406. -/
def execSetEnvelope (h : Hmp) (slew floor : Nat) (s : State) : Outcome State Fault Refusal :=
  s.onUnit true fun s => s.serve h 0x0020 (leBytes 1 slew ++ leBytes 2 floor) (some 2) false fun s =>
    if !s.allIdle || s.hm.brake || s.hm.leak then { s, status := 0x05 }
    else if slew < 4 || 32 < slew || floor < 100 || 1650 < floor then { s, status := 0x01 }
    else if slew * 300 < 1650 - floor then { s, status := 0x06 }
    else { s := s.modHm fun m => { m with
      storedSlew := BitVec.ofNat 8 slew, storedFloor := BitVec.ofNat 16 floor
      govSlew := BitVec.ofNat 8 slew, govFloor := BitVec.ofNat 16 floor } }

/-- The bodies of SET_FILTER (n, then release and assert of 3 bytes, min_pulse, alert_after and flow_min) and SET_NET (the
addresses, the UDP port and the FEC). -/
def filterBody (n : Nat) (par : FilterPar) : List Byte :=
  leBytes 1 n ++ leBytes 3 par.release.toNat ++ leBytes 3 par.assert.toNat ++ leBytes 2 par.minPulse.toNat ++
  leBytes 2 par.alertAfter.toNat ++ leBytes 2 par.flowMin.toNat

def netBody (net : NetCfg) : List Byte :=
  leBytes 4 net.ipv4.toNat ++ leBytes 16 net.ipv6.toNat ++ leBytes 2 net.udpPort.toNat ++ leBytes 1 net.fec.toNat

/-- SET_FILTER: stored for the next start; flow_min may be raised, not lowered (R370, R372). -/
def execSetFilter (h : Hmp) (n : Nat) (par : FilterPar) (s : State) : Outcome State Fault Refusal :=
  s.onUnit true fun s => s.serve h 0x0021 (filterBody n par) (some 2) false fun s =>
    if 4 < n then { s, status := 0x01 }
    else if n = 4 && par.flowMin.toNat < max s.hm.flowMin.toNat
        (((FMap.find 4 s.hm.storedFilters).map fun p => p.flowMin.toNat).getD 0) then { s, status := 0x06 }
    else { s := s.modHm fun m => { m with storedFilters := FMap.insert n par m.storedFilters } }

def execSetNet (h : Hmp) (net : NetCfg) (s : State) : Outcome State Fault Refusal :=
  s.onUnit true fun s => s.serve h 0x0022 (netBody net) (some 2) false fun s =>
    { s := s.modHm fun m => { m with storedNet := net } }

/-- SET_THRESH: a warn threshold, stored and in force at once; the latest reading is judged by it from then on, and one no
longer beyond it lets the next one cross. -/
def execSetThresh (h : Hmp) (id : Nat) (warn : Int) (s : State) : Outcome State Fault Refusal :=
  s.onUnit true fun s => s.serve h 0x0023 (leBytes 2 id ++ leBytes 4 (BitVec.ofInt 32 warn).toNat) (some 2) false fun s =>
    if !sensorId id then { s, status := 0x01 }
    else { s := s.modHm fun m => { m with
      thresh := FMap.insert id warn m.thresh, storedThresh := FMap.insert id warn m.storedThresh
      sensors := match FMap.find id m.sensors with
        | some r => FMap.insert id { r with told := r.told && beyondWarn id r.value warn } m.sensors
        | none => m.sensors } }

/-! ### Firmware update (R380–R382) -/

/-- A firmware event (log kind 8). -/
def State.logFw (s : State) (event status : Nat) (img : FwImage) : State :=
  s.logRecord 8 0xFF (leBytes 1 event ++ leBytes 1 status ++ leBytes 4 img.version.toNat ++ leBytes 1 img.svn ++
    List.replicate 9 0) []

/-- FW_STAGE, FW_VERIFY and FW_ACTIVATE answer 0x07 while an activation runs (R381, Table 12). -/
def State.fwGroup (s : State) (f : State → Answer) : Answer := if s.hm.selfTest then { s, status := 0x07 } else f s

def execFwStage (h : Hmp) (offset : Nat) (data : List Byte) (s : State) : Outcome State Fault Refusal :=
  s.onUnit true fun s => s.serve h 0x0030 (leBytes 8 offset ++ data) (some 2) true fun s => s.fwGroup fun s =>
    if 1024 < data.length || 0x800000 < offset + data.length then { s, status := 0x01 }
    else { s := s.modHm fun m => { m with
      staging := Memory.write m.staging offset data
      staged := (m.staged.filter fun a => a < offset || offset + data.length ≤ a) ++
        (List.range data.length).map (offset + ·)
      verified := none } }

/-- The staged image. -/
def Hallmark.stagedImage (m : Hallmark) : FwImage := { data := m.staging }

/-- Every byte up to n has been staged. -/
def Hallmark.stagedTo (m : Hallmark) (n : Nat) : Bool := (m.staged.filter fun a => a < n).eraseDups.length = n

def execFwVerify (h : Hmp) (body : List Byte) (s : State) : Outcome State Fault Refusal :=
  s.onUnit true fun s => s.serve h 0x0031 body (some 2) true fun s => s.fwGroup fun s =>
    if body ≠ [] then { s, status := 0x01 } else
    let img := s.hm.stagedImage
    let whole := s.hm.stagedTo img.length
    let s1 := if whole then s.logFw 0 0 img else s
    if whole && s1.hm.imageOk img then { s := (s1.modHm fun m => { m with verified := some img }).logFw 1 0 img }
    else { s := (s1.modHm fun m => { m with verified := none }).logFw 2 0x06 img, status := 0x06 }

/-- FW_ACTIVATE: the processor restarts on the verified image, which runs its self-test; nothing answers until the
processor has restarted (R381). -/
def execFwActivate (h : Hmp) (s : State) : Outcome State Fault Refusal :=
  s.onUnit true fun s => s.serve h 0x0032 [] (some 2) true fun s => s.fwGroup fun s =>
    match s.hm.verified with
    | none => { s, status := 0x05 }
    | some img => { s := (s.modHm fun m => { m with
        running := img, fwState := 1, selfTest := true, answerAt := s.restartEnd }).logFw 3 0 img }

/-- The recovery loader is entered: its latch, and event 6 (R383). -/
def State.enterRecovery (s : State) : State :=
  ((s.modHm fun h => { h with fwState := 2 }).alertLatch 5).logFw 6 0 s.hm.flash

/-- FW_SELF_TEST_RESULT: the staged image passes, writes itself to flash and records a pass of step 0x04 in the
journal, or the processor restarts from the flash image, which the mask ROM verifies as at a start (R381, R383). -/
def execFwSelfTestResult (passed : Bool) (s : State) : Outcome State Fault Refusal :=
  s.onUnit true fun s =>
    if !s.hm.selfTest then s
    else if passed then
      let done : JRec := .step 0x04 0xFFFF s.boot.start 0 0 0x00 0 0 0 0
      ({ s with
        hm := { s.hm with flash := s.hm.running, fwState := 0, selfTest := false, verified := none }
        boot := s.boot.add done } : State).logFw 4 0 s.hm.running
    else
      let s1 := (s.modHm fun m => { m with
        running := m.flash, fwState := 0, selfTest := false, answerAt := s.restartEnd }).logFw 5 0 s.hm.running
      if s1.hm.imageOk s1.hm.flash then s1 else s1.enterRecovery

/-- FW_SVN_COMMIT: the fused security version rises to that of the running image (R382). -/
def execFwSvnCommit (h : Hmp) (s : State) : Outcome State Fault Refusal :=
  s.onUnit true fun s => s.serve h 0x0033 [] (some 2) false fun s =>
    { s := (s.modHm fun m => { m with svn := BitVec.ofNat 8 (max m.svn.toNat (min 255 m.running.svn)) }).logFw 7 0
        s.hm.running }

/-! ### Operator keys (R378) -/

def Hallmark.setOperator (m : Hallmark) (slot role : Nat) (key : BitVec 1064) : Hallmark :=
  (m.setKey slot { m.key slot with key := some key, role := role }).drawNonce slot

/-- KEY_SET: replaces a slot's key. While all four slots are empty, an admin key for slot 0 is accepted unsigned. -/
def execKeySet (h : Hmp) (slot role : Nat) (key : BitVec 1064) (s : State) : Outcome State Fault Refusal :=
  s.onUnit true fun s =>
    let empty := (List.range 4).all fun k => (s.hm.key k).key.isNone
    let first := empty && h.slot = 0xFF && slot = 0 && role = 2
    s.serve h 0x0040 (leBytes 1 slot ++ leBytes 1 role ++ leBytes 133 key.toNat) (if first then none else some 2) false fun s =>
      if 3 < slot || 2 < role then { s, status := 0x01 }
      else { s := s.modHm fun m => m.setOperator slot role key }

/-- KEY_REVOKE: empties a slot, unless it holds the last admin key. -/
def execKeyRevoke (h : Hmp) (slot : Nat) (s : State) : Outcome State Fault Refusal :=
  s.onUnit true fun s => s.serve h 0x0041 (leBytes 1 slot) (some 2) false fun s =>
    let admin (k : Nat) : Bool := (s.hm.key k).key.isSome && (s.hm.key k).role = 2
    if 3 < slot then { s, status := 0x01 }
    else if admin slot && (List.range 4).all fun k => k = slot || !admin k then { s, status := 0x05 }
    else { s := s.modHm fun m => m.setKey slot { m.key slot with key := none } }

/-! ### SPDM (R385, R386) and 1149.1 (R379) -/

/-- A measurement of Table 16: over a port's DOE indices 5 and 6 are that port's allotment; over HMP 16 + p and
24 + p. -/
def State.measurement (s : State) (port : Option Nat) (index : Nat) : Option (List Byte) :=
  let plan (p : Nat) : List Byte := match (s.spine p).plan with
    | some pl => leBytes 64 pl.img.imageDigest.toNat
    | none => List.replicate 64 0
  let os (p : Nat) : List Byte := leBytes 64 (FMap.getD s.hm.osDigests p 0).toNat
  if index = 1 || index = 2 then some (leBytes 64 (Config.digest index).toNat)
  else if index = 3 then some s.hm.running.digest
  else if index = 4 then some (leBytes 1 s.hm.svn.toNat ++ leBytes 1 (b2n s.hm.jtagOpen) ++
    leBytes 1 (b2n (s.hm.fwState = 2)))
  else match port with
  | some p => if index = 5 then some (os p) else if index = 6 then some (plan p) else none
  | none =>
    if 16 ≤ index && index < 24 then some (os (index - 16))
    else if 24 ≤ index && index < 32 then some (plan (index - 24)) else none

/-- The first four bytes of a response, and an ERROR response with its code and data. -/
def spdmHead (code p1 p2 : Nat) : List Byte := [0x13] ++ leBytes 1 code ++ leBytes 1 p1 ++ leBytes 1 p2
def spdmError (code data : Nat) : List Byte := spdmHead 0x7F code data

/-- The indices a requester can measure: on a port's DOE only its own allotment's (R386). -/
def spdmIndices : Option Nat → List Nat
  | some _ => [1, 2, 3, 4, 5, 6]
  | none => [1, 2, 3, 4] ++ (List.range 16).map (16 + ·)

/-- A measurement block: index, DMTF specification, size, and the value with its type, of which index 4 is raw. -/
def spdmBlock (index : Nat) (b : List Byte) : List Byte :=
  leBytes 1 index ++ [1] ++ leBytes 2 (b.length + 3) ++ [if index = 1 then 0 else if index = 4 then 0x83 else 1] ++
  leBytes 2 b.length ++ b

def State.spdmBlocks (s : State) (port : Option Nat) (l : List Nat) : List Byte :=
  l.flatMap fun i => ((s.measurement port i).map (spdmBlock i)).getD []

/-- The digest of all measurements that a CHALLENGE or KEY_EXCHANGE may ask for, by its parameter. -/
def State.spdmSummary (s : State) (port : Option Nat) (kind : Nat) : List Byte :=
  if kind = 0 then [] else sha512 (s.spdmBlocks port (if kind = 1 then [1, 2, 3, 4] else spdmIndices port))

/-- A message with the signature that follows it. -/
def spdmSigned (l : List Byte) : List Byte := l ++ leBytes 132 (Config.spdmSign l).toNat

/-- What the responder answers: the state it leaves, the message, how many secured sessions the channel has then, and the
IDE stream that has been re-keyed. -/
structure SpdmAns where
  s : State
  body : List Byte
  held : Nat
  rekeyed : Option Nat := none

/-- Flags of CAPABILITIES by Table 15: CERT, CHAL, MEAS with signature, ENCRYPT, MAC, KEY_EX, HBEAT, KEY_UPD, CHUNK. -/
def spdmFlags : Nat := 0x262D6

/-- ALGORITHMS by Table 15: measurement hash and base hash SHA-512, ECDSA P-521, DHE secp521r1, AES-256-GCM, and the
SPDM key schedule. -/
def spdmAlgorithms : List Byte :=
  spdmHead 0x63 3 0 ++ leBytes 2 48 ++ [1, 0] ++ leBytes 4 8 ++ leBytes 4 0x100 ++ leBytes 4 4 ++ List.replicate 12 0 ++
  leBytes 4 0 ++ [2, 0x20, 0x20, 0, 3, 0x20, 2, 0, 5, 0x20, 1, 0]

/-- IDE_KM in a session (R385): a K_SET_GO re-keys its stream; the answer acknowledges the object. -/
def ideKm (s : State) (held : Nat) (m : List Byte) : SpdmAns :=
  let obj := leAt m 12 1
  let stream := leAt m 15 1
  let ack : Nat := if obj = 0 then 1 else if obj = 2 then 3 else 6
  if 1 < stream then { s, body := spdmError 0x01 0, held }
  else
    let said := slice m 4 5 ++ leBytes 2 8 ++ [0] ++ leBytes 1 ack ++ [0, 0] ++ slice m 15 1 ++ [0] ++ slice m 17 2
    { s, body := spdmHead 0x7E 0 0 ++ said, held, rekeyed := if obj = 4 then some stream else none }

/-- The answer to one SPDM 1.3 message that comes whole, over a port's DOE or over HMP, where `held` of at most `limit`
secured sessions are open (R385 Table 15). The bytes are those of DSP0274 (PRESUMED, log entry 68). -/
def State.spdmWhole (s : State) (port : Option Nat) (limit held : Nat) (m : List Byte) : SpdmAns :=
  let code := leAt m 1 1
  let p1 := leAt m 2 1
  let p2 := leAt m 3 1
  let inSession (b : List Byte) (n : Nat) : SpdmAns :=
    if held = 0 then { s, body := spdmError 0x0B 0, held } else { s, body := b, held := n }
  let nonce := leBytes 32 (Config.freshNonce s.hm.drbg).toNat
  let s1 := s.modHm fun h => { h with drbg := h.drbg + 1 }
  if m.length < 4 then { s, body := spdmError 0x01 0, held }
  else if code = 0x84 then { s, body := [0x10, 0x04, 0, 0, 0, 1, 0x00, 0x13], held }
  else if leAt m 0 1 ≠ 0x13 then { s, body := spdmError 0x41 0, held }
  else match code with
  | 0xE1 =>
    let caps := [0, Config.spdmCtExponent, 0, 0] ++ leBytes 4 spdmFlags ++ leBytes 8 Config.spdmSizes.toNat
    { s, body := spdmHead 0x61 0 0 ++ caps, held }
  | 0xE3 => { s, body := spdmAlgorithms, held }
  | 0x81 => { s, body := spdmHead 0x01 1 1 ++ sha512 s.hm.chain, held }
  | 0x82 =>
    let part := slice s.hm.chain (leAt m 4 2) (min (leAt m 6 2) (s.hm.chain.length - leAt m 4 2))
    if p1 % 16 ≠ 0 then { s, body := spdmError 0x01 0, held }
    else
      let left := s.hm.chain.length - leAt m 4 2 - part.length
      { s, body := spdmHead 0x02 0 0 ++ leBytes 2 part.length ++ leBytes 2 left ++ part, held }
  | 0x83 =>
    if p1 % 16 ≠ 0 then { s, body := spdmError 0x01 0, held }
    else
      let said := sha512 s.hm.chain ++ nonce ++ s.spdmSummary port p2 ++ leBytes 2 0 ++ slice m 36 8
      { s := s1, body := spdmSigned (spdmHead 0x03 0 1 ++ said), held }
  | 0xE0 =>
    let l := if p2 = 0 then [] else if p2 = 0xFF then spdmIndices port else [p2]
    let rec_ := s.spdmBlocks port l
    let body := spdmHead 0x60 (if p2 = 0 then (spdmIndices port).length else 0) 0 ++ leBytes 1 l.length ++
      leBytes 3 rec_.length ++ rec_ ++ nonce ++ leBytes 2 0
    if l.any fun i => !(spdmIndices port).contains i then { s, body := spdmError 0x01 0, held }
    else { s := s1, body := if p1 % 2 = 1 then spdmSigned (body ++ slice m 37 8) else body ++ slice m 4 8, held }
  | 0xE4 =>
    if limit ≤ held then { s, body := spdmError 0x0A 0, held }
    else
      let data := leBytes 256 (Config.spdmExchange s.hm.drbg).toNat
      let said := spdmHead 0x64 0 0 ++ slice data 0 2 ++ [0, 0] ++ slice data 2 164 ++ s.spdmSummary port p1 ++ leBytes 2 0
      { s := s1, held := held + 1, body := spdmSigned said ++ slice data 166 64 }
  | 0xE5 => inSession (spdmHead 0x65 0 0) held
  | 0xE8 => inSession (spdmHead 0x68 0 0) held
  | 0xE9 => inSession (spdmHead 0x69 p1 p2) held
  | 0xEC => inSession (spdmHead 0x6C 0 0) (held - 1)
  | 0x86 => { s, body := spdmError 0x04 0, held }
  | 0xFE =>
    if port.isNone then { s, body := spdmError 0x07 0xFE, held }
    else if held = 0 then { s, body := spdmError 0x0B 0, held }
    else ideKm s held m
  | _ => { s, body := spdmError 0x07 code, held }

/-- The answer to an SPDM message with what the channel has gathered of a chunked one, and what it then holds: a
CHUNK_SEND adds its bytes and carries the answer of the whole message in its last acknowledgement. -/
def State.spdmMessage (s : State) (port : Option Nat) (limit held : Nat) (chunks m : List Byte) : SpdmAns × List Byte :=
  if leAt m 1 1 = 0x85 && leAt m 0 1 = 0x13 then
    let seq := leAt m 4 2
    let l := (if seq = 0 then [] else chunks) ++ slice m (if seq = 0 then 16 else 12) (leAt m 8 4)
    let ack := spdmHead 0x05 0 (leAt m 3 1) ++ leBytes 2 seq
    if leAt m 2 1 % 2 = 1 then
      let a := s.spdmWhole port limit held l
      ({ a with body := ack ++ a.body }, [])
    else ({ s, body := ack, held }, l)
  else (s.spdmWhole port limit held m, chunks)

/-- SPDM over HMP: at most four secured sessions; IDE_KM runs only on a port's DOE (R385). -/
def execSpdm (h : Hmp) (msg : List Byte) (s : State) : Outcome State Fault Refusal :=
  s.onUnit true fun s => s.serve h 0x0050 msg none false fun s =>
    let (a, l) := s.spdmMessage none 4 s.hm.hmpSessions s.hm.spdmChunks msg
    { s := a.s.modHm fun m => { m with hmpSessions := a.held, spdmChunks := l }, body := a.body }

/-- DOE_SPDM_MESSAGE: SPDM on a port's DOE mailbox, with at most one secured session; IDE_KM in that session re-keys a
stream, which leaves Insecure (R345, R385). -/
def execDoeSpdmMessage (port : Nat) (msg : List Byte) (s : State) : Outcome State Fault Refusal :=
  s.onAllot port fun s =>
    if s.hm.fwState ≠ 0 || s.unanswered || (s.port port).rate = 0 then s
    else
      let (a, l) := s.spdmMessage (some port) 1 (b2n (s.port port).spdmSession) (s.port port).spdmChunks msg
      a.s.modPort port fun po => { po with
        spdmSession := decide (0 < a.held), spdmChunks := l, doeAnswer := some a.body
        ideInsecure := match a.rekeyed with
          | some k => setFld po.ideInsecure k k 0
          | none => po.ideInsecure }

/-- An unlock token: the serial number, the nonce, the firmware key and its signature of the two. -/
def Hallmark.tokenOk (m : Hallmark) (nonce : BitVec 256) (token : List Byte) : Bool :=
  let bound := leBytes 16 m.serial.toNat ++ leBytes 32 nonce.toNat
  let key := slice token 48 133
  token.length = 313 && token.take 48 = bound && m.firmwareKey key && ecVerify key bound (slice token 181 132)

/-- JTAG_UNLOCK: opens 1149.1 until the next reset of the Hallmark block (R379). The token binds the nonce that the
request itself bears. -/
def execJtagUnlock (h : Hmp) (claim sig : List Byte) (s : State) : Outcome State Fault Refusal :=
  let token := claim ++ sig
  s.onUnit true fun s => s.serve h 0x0060 token (some 2) false fun s =>
    if 512 < token.length then { s, status := 0x01 }
    else if !s.allIdle then { s, status := 0x05 }
    else if !s.hm.tokenOk h.nonce token then { s, status := 0x06 }
    else { s := s.modHm fun m => { m with jtagOpen := true } }

/-! ### Mailbox partitions (R388) -/

def Hallmark.mailbox (h : Hallmark) (p : Nat) : Mailbox := FMap.getD h.mailboxes p {}
def State.modMailbox (s : State) (p : Nat) (f : Mailbox → Mailbox) : State :=
  s.modHm fun h => { h with mailboxes := FMap.insert p (f (h.mailbox p)) h.mailboxes }

/-- A write of 1 to MBX_DOOR: the request in the buffer is served, and its response stands in the other buffer. A body
whose length is not the command's is malformed. -/
def State.doorbell (s : State) (p : Nat) : State :=
  let m := s.hm.mailbox p
  let req (a n : Nat) : Nat := ofLe (Memory.read m.request a n)
  let cmd := req 6 2
  let n := req 0x0E 2
  if s.unanswered || s.hm.fwState = 2 || req 0 4 ≠ 0x504D484E || req 5 1 = 1 then s
  else
    let (st, body) :=
      if cmd ≠ 1 && cmd ≠ 3 && cmd ≠ 4 then (0x04, [])
      else if !bodyFits cmd (List.replicate n 0) then (0x01, [])
      else if cmd = 1 then (0, s.identBody)
      else if cmd = 3 then s.sensorsBody (req 0x30 2) (req 0x32 2)
      else s.logBody (req 0x30 8) (req 0x38 2) (some p)
    let out := hmpBytes 1 cmd (BitVec.ofNat 32 (req 8 4)) 0xFF st 0 body
    s.modMailbox p fun m => { m with
      response := Memory.write m.response 0 out, status := BitVec.ofNat 8 st, done := true }

/-- OS_WATCHDOG_EXPIRY: logs kind 9 and sets the OS watchdog latch; the allotment is unchanged (R360, R388). -/
def execOsWatchdogExpiry (allot : Nat) (s : State) : Outcome State Fault Refusal :=
  s.onAllot allot fun s =>
    let per := (s.hm.mailbox allot).period
    if per = 0 then s
    else (s.logRecord 9 allot (leBytes 4 per.toNat ++ List.replicate 12 0) []).alertLatch 4

end Sys2Proof.Machine
end

