-- ==== Sys2Proof/Machine/Boot.lean ====
section
/-! DEFINITION. Start-up and the boot journal (R413–R424), resets, and the supply (R454–R458). -/

namespace Sys2Proof.Machine

open Host (Outcome)

/-! ### The steps (R415 Table 3) -/

/-- Steps with an alternate method. -/
def hasAlt (st : Nat) : Bool :=
  st = 0x03 || st = 0x05 || st = 0x06 || st = 0x07 || st = 0x0A || st = 0x0B || st = 0x0D || st = 0x0E || st = 0x0F ||
  st = 0x13

/-- Mandatory steps; an island step is mandatory on islands 36 and above (Table 3). -/
def mandatory (st u : Nat) : Bool :=
  (1 ≤ st && st ≤ 6) || st = 0x08 || (st = 0x09 && 36 ≤ u) || st = 0x0C || st = 0x11 || st = 0x15

/-- Whether a start kind runs a step. -/
def runsIn (st kind : Nat) : Bool :=
  if st = 0x03 || st = 0x15 then true
  else if st ≤ 0x07 || st = 0x11 then kind ≠ 2
  else if st = 0x08 then kind ≠ 2 && kind ≠ 3
  else kind ≠ 3

/-- The steps and units of a start in order; unit 0xFFFF stands for none. The Hallmark island has no PLL (R389). Steps 0x0D
to 0x10 run island by island, and the slices of an island are under test while the island before it is calibrated and
runs its reference step (R415). -/
def stepsOf (kind : Nat) : List (Nat × Nat) :=
  let one (l : List Nat) : List (Nat × Nat) := l.map fun st => (st, 0xFFFF)
  let units (st n : Nat) : List (Nat × Nat) := (List.range n).map fun u => (st, u)
  (one [1, 2, 3, 4, 5, 6, 7, 8] ++ ((List.range 60).filter (· ≠ 57)).map (fun u => (0x09, u)) ++ units 0x0A 12 ++ units 0x0B 12 ++ one [0x0C] ++
    [(0x0D, 0), (0x0E, 0)] ++
    ((List.range 35).flatMap fun i => [(0x0D, i + 1), (0x0F, i), (0x10, i), (0x0E, i + 1)]) ++ [(0x0F, 35), (0x10, 35)] ++
    one [0x11, 0x12] ++ units 0x13 8 ++ units 0x14 8 ++ one [0x15]).filter fun x => runsIn x.1 kind

/-! ### The journal (R420, R422–R424) -/

/-- The latest record of a step and unit: method, alt_run, outcome. -/
def latest (l : List JRec) (st u : Nat) : Option (Nat × Nat × Nat) :=
  l.reverse.findSome? fun r => match r with
    | .step st' u' _ m a o .. => if st' = st && u' = u then some (m, a, o) else none
    | _ => none

/-- choose of R420: the method (0 primary, 1 alternate, 2 skip) and alt_run. -/
def chooseMethod (l : List JRec) (st u : Nat) : Nat × Nat :=
  match latest l st u with
  | none => (0, 0)
  | some (m, a, o) =>
    if o = 0x04 then (0, 0)
    else if o = 0x00 || o = 0x01 then (if m = 1 && a < 15 then (1, a + 1) else (0, 0))
    else if m = 0 && hasAlt st then (1, 0)
    else if !mandatory st u then (2, 0)
    else (0, 0)

/-- The three fuse-map records. -/
def fuseRecords (bad : List Nat) : List JRec :=
  (List.range 3).map fun k => .fuse k (bad.filter fun x => x / 192 = k)

/-- Whether a later step record of the same step and unit follows. -/
def superseded (r : JRec) (t : List JRec) : Bool :=
  match r with
  | .step st u .. => t.any fun q => match q with
    | .step st' u' .. => st' = st && u' = u
    | _ => false
  | _ => true

/-- The step records that no later record of their pair follows. -/
def lastSteps : List JRec → List JRec
  | [] => []
  | r :: t => if superseded r t then lastSteps t else r :: lastSteps t

/-- The fuse-map records of a list, and the latest fence record of a unit. -/
def fuseOf (l : List JRec) : List JRec := l.filter fun r => match r with | .fuse .. => true | _ => false
def fenceRecord (l : List JRec) (typ index : Nat) : Option JRec :=
  l.reverse.find? fun r => match r with | .fence t i .. => t = typ && i = index | _ => false

/-- Compaction into the other half, with the generation raised by 1; the old half is then erased (R423). -/
def Boot.compact (b : Boot) : Boot :=
  match b.active with
  | none => b
  | some h =>
    let l := b.records
    let g := (halfGeneration (b.half h)).getD 0 + 1
    let fences := b.fences.filterMap fun f => fenceRecord l f.1 f.2.1
    (b.setHalf (!h) (.header g :: (fuseOf l ++ fences ++ lastSteps l))).setHalf h []

/-- A new journal at generation 0, both halves erased, keeping every fuse-map and fence record that passes its CRC (the
alternate of step 0x03). -/
def Boot.rebuild (b : Boot) : Boot :=
  let kept := (b.half0 ++ b.half1).filter fun r => match r with
    | .fuse .. | .fence .. => true
    | _ => false
  { b with half0 := .header 0 :: kept, half1 := [] }

/-- Whether the active half has fewer than 256 free records. -/
def Boot.nearlyFull (b : Boot) : Bool :=
  match b.active with
  | some h => decide (16384 < (b.half h).length + 256)
  | none => false

/-- The bytes 0x00 to 0x1B of a record, and the record of 32 bytes with its CRC-32C (R422 Tables 5 and 6); a step record
that is incomplete has only its first ten bytes programmed. -/
def JRec.body : JRec → List Byte
  | .start kind restarts n version svn cycles =>
    leBytes 1 1 ++ leBytes 1 kind ++ leBytes 1 restarts ++ [0] ++ leBytes 4 n ++ leBytes 4 version.toNat ++ [svn] ++
    List.replicate 7 0 ++ leBytes 8 cycles.toNat
  | .step st unit n method altRun outcome reason detail duration fenced =>
    leBytes 1 2 ++ leBytes 1 st ++ leBytes 2 unit ++ leBytes 4 n ++ leBytes 1 method ++ leBytes 1 altRun ++
    leBytes 1 outcome ++ leBytes 1 reason ++ leBytes 4 detail.toNat ++ leBytes 4 duration.toNat ++ leBytes 4 fenced.toNat ++
    leBytes 4 0
  | .fence typ index cls retests n at_ => fenceBytes 3 typ index cls retests n at_
  | .unfence typ index cls retests n at_ => fenceBytes 4 typ index cls retests n at_
  | .fuse part bad =>
    leBytes 1 5 ++ leBytes 1 part ++ leBytes 2 0 ++
    leBytes 24 (bad.foldl (fun a x => if x / 192 = part then a ||| 2 ^ (x % 192) else a) 0)
  | .header generation => leBytes 1 6 ++ leBytes 4 generation ++ List.replicate 23 0
  | .corrupt bytes => slice bytes 0 28
where
  fenceBytes (kind typ index cls retests n : Nat) (at_ : Word) : List Byte :=
    leBytes 1 kind ++ leBytes 1 typ ++ leBytes 2 index ++ leBytes 1 cls ++ leBytes 1 retests ++ leBytes 3 0 ++
    leBytes 4 n ++ leBytes 8 at_.toNat ++ leBytes 7 0

def JRec.bytes (r : JRec) : List Byte :=
  match r with
  | .step _ _ _ _ _ 0xFF _ _ _ _ => r.body.take 10 ++ List.replicate 22 0xFF
  | .corrupt b => slice b 0 32
  | _ => r.body ++ leBytes 4 (crc32c r.body).toNat

/-- A half of the journal as it stands in flash: erased flash reads as all ones. -/
def halfBytes (l : List JRec) : List Byte :=
  l.flatMap JRec.bytes ++ List.replicate (32 * (16384 - l.length)) 0xFF

/-- An incomplete record of a step of start n. -/
def JRec.incomplete (r : JRec) (n : Nat) : Bool :=
  match r with
  | .step _ _ k _ _ out .. => k = n && out = 0xFF
  | _ => false

/-- A step's closing bytes: its incomplete record of this start is completed in its place, or the record is written. -/
def Boot.close (b : Boot) (r : JRec) : Boot :=
  match b.active with
  | none => b
  | some h =>
    if (b.half h).any fun q => q.incomplete b.start then
      b.setHalf h ((b.half h).map fun q => if q.incomplete b.start then r else q)
    else b.add r

/-- Closes a step's record, incomplete until now, and logs it (kind 11). A start runs within one command, so the intake
makes room for a record that finds the hardware queue full. -/
def State.closeStep (s : State) (st u m a out reason : Nat) (detail duration fenced : Word32) : State :=
  let b := s.boot
  let s1 := { s with boot := b.close (.step st u b.start m a out reason detail duration fenced) }
  let s2 := if 256 ≤ s1.hm.hwQueue.length then s1.takeQueued else s1
  s2.logRecord 11 0xFF (leBytes 1 st ++ leBytes 1 m ++ leBytes 1 out ++ leBytes 1 reason ++ leBytes 2 u ++ leBytes 2 0 ++
    leBytes 4 detail.toNat ++ leBytes 4 b.start) []

/-! ### What the steps do (R415–R421) -/

/-- Fence entries of a type in a unit, that a power-on start tests once more (R421). -/
def retests (s : State) (kind typ : Nat) (f : Nat → Bool) : List Nat :=
  if kind ≠ 0 then [] else s.boot.fences.filterMap fun x =>
    if x.1 = typ && f x.2.1 && x.2.2.2 < 2 then some x.2.1 else none

/-- A unit under retest passes and is returned to service by an unfence record, or stays fenced by a fence record with its
count raised (R421). -/
def State.retest (s : State) (typ index : Nat) (fails : Bool) : State :=
  let b := s.boot
  let (cls, n) := ((b.fences.find? fun x => x.1 = typ && x.2.1 = index).map fun x => x.2.2).getD (0, 0)
  if fails then { s with boot := b.add (.fence typ index cls (n + 1) b.start 0) }
  else
    let s1 := { s with boot := b.add (.unfence typ index cls n b.start 0) }
    if typ = 2 then s1.modPkg index fun x => { x with fenced := false }
    else
      let i := islandOf index
      if typ = 0 then
        (s1.modCore index fun c => { c with fenced := false }).modIsland i fun x =>
          { x with coreFence := setFld x.coreFence (posOf index) (posOf index) 0 }
      else s1.modIsland i fun x => { x with sliceFence := setFld x.sliceFence (posOf index) (posOf index) 0 }

/-- Memory that the write method leaves zero: [a, a + n) (R416). -/
def State.zeroMem (s : State) (a n : Nat) : State :=
  { s with
    mem := Memory.outside s.mem a n
    poisonWords := s.poisonWords.filter fun k => k * 8 < a || a + n ≤ k * 8
    poisonLines := s.poisonLines.filter fun k => k * 64 < a || a + n ≤ k * 64
    injected := s.injected.filter fun x => x.1 < a || a + n ≤ x.1 }

/-- The lines that a memory test of [a, a + n) found uncorrectable. -/
def foundIn (l : List Nat) (a n : Nat) : List Nat := ((l.filter fun x => a ≤ x && x < a + n).map (· / 64)).eraseDups

/-- A unit at [a, a + n) has more failing lines than spare lines left (R416). -/
def State.beyondSpares (s : State) (l : List Nat) (a n : Nat) : Bool :=
  decide ((if a < sramEnd then 32 else 64) < s.sparesUsed a + (foundIn l a n).length)

/-- The test of a unit's memory at [a, a + n) (R416). The write method applies at power-on, and to a unit no write method
has initialised since; it leaves zeros, and a line it finds uncorrectable takes a spare line. The scan method keeps contents
and poison; a line it finds uncorrectable is poisoned, and takes a spare line at its next whole write (R322). -/
def State.testMem (s : State) (kind typ unit a n : Nat) (l : List Nat) : State :=
  let found := foundIn l a n
  if kind = 0 || !s.boot.initialised.contains (typ, unit) then
    let s1 := forEach found (s.zeroMem a n) State.useSpare
    { s1 with boot := { s1.boot with initialised := s1.boot.initialised.filter (· ≠ (typ, unit)) ++ [(typ, unit)] } }
  else forEach found s fun s k =>
    let s1 := s.noteUe (64 * k)
    if s1.remaps.contains k then s1 else { s1 with remaps := s1.remaps ++ [k] }

/-- Units of a mask, on an island. -/
def sitesOf (i : Nat) (mask : BitVec 16) : List Nat :=
  ((List.range 16).filter fun k => mask.getLsbD k).map (16 * i + ·)

/-- Defaults of Table 6, or the stored parameters, as the filters in force (R370). -/
def Hallmark.loadFilters (h : Hallmark) (stored : Bool) : Hallmark :=
  { h with
    filtLock := true
    filters := (List.range 5).map fun n =>
      let f := h.filter n
      let d := filterDefault n
      let p : FilterPar := if stored then FMap.getD h.storedFilters n
          { release := d.release, assert := d.assert, minPulse := d.minPulse, alertAfter := d.alertAfter, flowMin := 0 }
        else { release := d.release, assert := d.assert, minPulse := d.minPulse, alertAfter := d.alertAfter, flowMin := 0 }
      (n, { f with release := p.release, assert := if p.assert = 0 then 1 else p.assert, minPulse := p.minPulse,
                   alertAfter := p.alertAfter })
    flowMin := if stored then match FMap.find 4 h.storedFilters with
        | some p => if h.flowMin.toNat < p.flowMin.toNat then p.flowMin else h.flowMin
        | none => h.flowMin
      else h.flowMin
    thresh := if stored then h.storedThresh else []
    govSlew := h.storedSlew
    govFloor := h.storedFloor }

/-- The package of an island's column for the reference step (R419). -/
def refPackage (s : State) (i : Nat) : Option Nat :=
  let c := colOf i
  let near := if rowOf i < 3 then c else 6 + c
  let far := if rowOf i < 3 then 6 + c else c
  if s.pkgOk near then some near else if s.pkgOk far then some far else none

/-- A unit's step is not attempted: withheld or fenced (R418, reason 0x07). A package whose retest has failed in step 0x0A
is not tested in step 0x0B (R421). -/
def State.notAttempted (s : State) (kind st u : Nat) : Bool :=
  if st = 0x0A || st = 0x0B then
    (s.pkg u).withheld || ((s.pkg u).fenced && ((retests s kind 2 (· = u)).isEmpty || s.boot.retestFailed.contains u))
  else if 0x0D ≤ st && st ≤ 0x10 then
    ((List.range 16).all fun k => s.boot.withheldSites.contains (16 * u + k)) || (st = 0x10 && (refPackage s u).isNone)
  else if st = 0x13 || st = 0x14 then (s.record u).isNone
  else false

/-- The order in which step 0x08 turns the rails on (R456): the uncore, VDD1, VDD2H, VDD2L and VDDQ, the SRAM stack, and
the core rails. -/
def railOrder : List Nat := [11, 13, 14, 15, 12, 2, 3, 4, 5, 6, 7, 8, 9, 10]

/-- Turns rail r on; a core rail starts at the voltage its islands' steps require (R390). -/
def State.railOn (s : State) (r : Nat) : State :=
  let s1 := { s with supply := { s.supply with rails := setFld s.supply.rails r r 1 } }
  match railIslands r with
  | i :: _ => s1.setRail i
  | [] => s1

/-- Step 0x08: each rail after the one before it reports power good; one that fails leaves on those before it. -/
def State.railsOn (s : State) (failing : Option Nat) : State :=
  forEach (match failing with
    | none => railOrder
    | some k => if railOrder.contains k then railOrder.takeWhile (· ≠ k) else []) s State.railOn

/-- The sites that the fence list or the withheld ones take out are written to ISL_FENCE (R424). -/
def State.writeFences (s : State) : State :=
  let l := s.boot.fences
  let mask (typ i : Nat) : BitVec 16 := (l.filter fun f => f.1 = typ && islandOf f.2.1 = i).foldl
    (fun m f => setFld m (posOf f.2.1) (posOf f.2.1) 1) 0
  forEach (List.range 36) s fun s i =>
    let c := mask 0 i
    let k := mask 1 i
    if (s.island i).coreFence = c && (s.island i).sliceFence = k then s
    else s.modIsland i fun x => { x with coreFence := c, sliceFence := k }

/-- What start-up loses where a step does not run: a compute island without its PLL locked withholds its sites, and a port
that is not trained, or a management port that is not set up, stays down. -/
def State.skipEffect (s : State) (st u : Nat) : State :=
  match st with
  | 0x07 => s.modHm fun h => { h with portUp := false }
  | 0x09 => if u < 36 then { s with boot := { s.boot with withheldSites := s.boot.withheldSites ++ islandSites u } } else s
  | 0x13 => s.modPort u fun po => { po with held := true }
  | _ => s

/-- The latest record of a step and unit that is no skip is of a failure (R418: a skip lasts one start, so that the next
start of a compute island's step 0x09 is the one after it; DEDUCED, log entry 79). -/
def Boot.failedLast (b : Boot) (st u : Nat) : Bool :=
  (latest (b.records.filter fun r => match r with | .step _ _ n _ _ o .. => n ≠ b.start && o ≠ 0x04 | _ => false) st u).any
    fun x => x.2.2 = 0x02 || x.2.2 = 0xFF

/-- Copies the resident operating system to its region in allotment p and measures it (step 0x14). -/
def State.placeOs (s : State) (p : Nat) : State :=
  match s.record p with
  | none => s
  | some r =>
    let os := Config.osSection s.hm.running.bytes
    let s1 := (s.store p r.osBase (os.take r.osLen)).getD s
    s1.modHm fun h => { h with osDigests := FMap.insert p (BitVec.ofNat 512 (ofLe (sha512 os))) h.osDigests }

/-- Applies what a step does when it has run with a method; r tells a failure and the parts that failed. -/
def State.stepEffect (s : State) (kind st u m : Nat) (rep : StartReport) (r : StepResult) : State :=
  let ok := !r.failed
  match st with
  | 0x02 =>
    let bad := s.hm.fuseMap.getD rep.badSites
    { s with
      boot := { s.boot with badSites := bad }
      hm := { s.hm with
        fuseMap := some bad
        svn := if s.hm.fuseMap.isNone && s.hm.svn.toNat < rep.svn.toNat then rep.svn else s.hm.svn } }
  | 0x03 =>
    let b := s.boot
    let b1 := if m = 1 then b.rebuild else if b.nearlyFull then b.compact else b
    let b2 := if fuseOf b1.records = [] then (fuseRecords b1.badSites).foldl Boot.add b1 else b1
    if ok then
      { s with boot := b2.add (.start kind b2.restarts b2.start s.hm.running.version (BitVec.ofNat 8 s.hm.svn.toNat)
        (s.ticks - s.hm.cntBase)) }
    else s
  | 0x04 => if ok then s.modHm fun h => { h with running := h.flash, fwState := 0 } else s
  | 0x05 => if ok then s.modHm fun h => { h with flowMin := 1200, ulPulse := 500 } else s
  | 0x06 => if ok then s.modHm fun h => h.loadFilters (m = 0) else s
  | 0x07 =>
    if !ok then s.skipEffect 0x07 u
    else if m = 0 then s.modHm fun h => { h with net := h.storedNet, portUp := true }
    else s.modHm fun h => { h with
      net := { ipv4 := 0, ipv6 := 0, udpPort := h.storedNet.udpPort, fec := 0 }, portUp := true }
  | 0x08 => s.railsOn (if ok then none else some (r.detail.toNat % 256))
  | 0x09 =>
    if 36 ≤ u then (if ok then { s with lostClocks := s.lostClocks.filter (· ≠ u) } else s)
    else if ok then s.modIsland u fun x => { x with cntBase := s.ticks, clockLost := false }
    else
      let s1 := s.skipEffect 0x09 u
      if s.boot.failedLast 0x09 u then forEach (islandSites u) s1 fun s x => s.fenceSlice x 0x0B else s1
  | 0x0A =>
    if ok then s.modPkg u fun x => { x with rate := if m = 1 then 8533 else 10667, alt := m = 1, selfRef := false }
    else if (s.pkg u).fenced then
      let s1 := s.retest 2 u true
      { s1 with boot := { s1.boot with retestFailed := s1.boot.retestFailed ++ [u] } }
    else if m = 1 then s.fencePackage u 0x0C
    else s.modPkg u fun x => { x with withheld := true }
  | 0x0B =>
    if ok then
      let s1 := s.testMem kind 1 u (lpBase u) 0x1200000000 r.lines
      if (s1.pkg u).fenced then s1.retest 2 u false else s1
    else if (s.pkg u).fenced then s.retest 2 u true
    else if m = 1 then s.fencePackage u 0x0C
    else s.modPkg u fun x => { x with withheld := true }
  | 0x0D =>
    let again := retests s kind 1 fun x => islandOf x = u
    let failed := sitesOf u r.slices
    let s1 := forEach again s fun s x => s.retest 1 x (r.failed || failed.contains x)
    let s2 := (forEach failed s1 fun s x => s.fenceSlice x 0x02).modIsland u fun x => { x with
      tested := if ok then ~~~r.slices else x.tested }
    forEach (islandSites u) s2 fun s x =>
      if s.sliceOk x then s.testMem kind 0 x (sliceBase x) sliceSize r.lines else s
  | 0x0E =>
    let again := (retests s kind 0 fun x => islandOf x = u).filter s.sliceOk
    let failed := sitesOf u r.cores
    let s1 := forEach again s fun s x => s.retest 0 x (r.failed || failed.contains x)
    forEach failed s1 fun s x => s.fenceCore x 0x06
  | 0x0F =>
    let gated := u :: ((List.range 12).filter fun n => pkgIsland n = u).map (36 + ·)
    if !ok then s
    else forEach gated s fun s g =>
      let (stp, temp, rest) := FMap.getD rep.calibration g (0, 85, 0)
      if g < 36 then s.modIsland g fun x => { x with
        calStep := if m = 1 then 0 else BitVec.ofNat 4 stp
        calTemp := if m = 1 then 85 else BitVec.ofInt 8 temp
        calRest := BitVec.ofNat 32 rest }
      else s.modGov g fun x => { x with rest := rest }
  | 0x10 => if ok then forEach (sitesOf u r.cores) s fun s x => s.fenceCore x 0x06 else s
  | 0x11 => if ok then s.modHm fun h => { h with attCert := h.certify } else s
  | 0x12 =>
    if !ok then s.applyTable []
    else s.applyTable (s.hm.table.filter fun rec => rec.valid && ((List.range 12).all fun n => s.pkgOk n ||
      !(physRangesOf rec rec.osBase rec.osLen).any fun x => overlaps x (lpBase n, 0x1200000000)))
  | 0x13 => if ok then s.modPort u fun po => { po with held := false, slow := m = 1 } else s.skipEffect 0x13 u
  | 0x14 => if ok then s.placeOs u else s.applyTable (s.hm.inForce.filter fun rec => rec.port ≠ u)
  | 0x15 => if ok then { s.writeFences with boot := { s.boot with ready := true, stopStep := 0, reason := 0 } } else s
  | _ => s

/-- The planned level of a gated island before its test, and its wind-down after the last one (R415): the compute islands
from step 0x0D to step 0x10, the memory controllers from step 0x0A to step 0x0B. A straight ramp reaches its target in
one tick. -/
def State.beforeTest (s : State) (st u : Nat) : State :=
  let raise (g : Nat) : State := s.modGov g fun x => { x with planned := max x.planned (Config.testLevel g) }
  if st = 0x0D then raise u else if st = 0x0A then raise (36 + u) else s
def State.afterTest (s : State) (st u : Nat) : State :=
  if st = 0x10 then s.windDown u else if st = 0x0B then s.windDown (36 + u) else s

/-- What the module itself finds in a step beside what the report tells: the flash image does not verify (R383), lines
beyond the spares (R416), a result digest that differs from the stored one (R419). -/
def State.judge (s : State) (st u : Nat) (r : StepResult) : StepResult :=
  if r.failed then r
  else match st with
  | 0x04 => if s.hm.imageOk s.hm.flash then r else { r with failed := true, reason := 0x03 }
  | 0x0B => if s.beyondSpares r.lines (lpBase u) 0x1200000000 then { r with failed := true, reason := 0x06 } else r
  | 0x0D =>
    let bad := (islandSites u).filter fun x => s.beyondSpares r.lines (sliceBase x) sliceSize
    { r with
      slices := bad.foldl (fun m x => setFld m (posOf x) (posOf x) 1) r.slices
      reason := if bad = [] then r.reason else 0x06 }
  | 0x10 =>
    let stored := Config.refDigest s.hm.running.bytes
    { r with cores := r.digests.foldl (fun m x => if x.1 < 16 && x.2 ≠ stored then setFld m x.1 x.1 1 else m) r.cores }
  | _ => r

/-- How one step of a start ends: the start goes on, or it halts here. -/
inductive StepEnd where
  | go (s : State)
  | halt (s : State)

/-- The method chosen for a step (R420). No valid half leaves step 0x03 only its alternate (R423). -/
def Boot.method (b : Boot) (st u : Nat) : Nat × Nat :=
  if st = 0x03 && b.active.isNone then (1, 0) else chooseMethod b.records st u

/-- A mandatory step has failed with a method (R418 Table 4): a journal restart where the next start would choose
another method, otherwise start-up stops; up to step 0x04 the recovery loader then serves HMP (R383), and from step 0x05
on the firmware does and every port stays in Detect. -/
def State.mandatoryFail (s : State) (st u m reason : Nat) : State :=
  let b := s.boot
  if (b.method st u).1 ≠ m && b.restarts < 3 then { s with boot := { b with restartDue := true } }
  else
    let s1 := { s with boot := { b with stopStep := BitVec.ofNat 8 st, reason := BitVec.ofNat 8 reason } }
    if st ≤ 4 then s1.enterRecovery
    else
      forEach (List.range 8) (s1.modHm fun h => { h with fwState := 0 }) fun s p =>
        if (s.port p).rate = 0 then s.modPort p fun po => { po with held := true } else s

/-- The end of an attempted step with its result. -/
def State.endStep (s : State) (kind st u m a : Nat) (rep : StartReport) (r0 : StepResult) : StepEnd :=
  let r := s.judge st u r0
  let s1 := (s.stepEffect kind st u m rep r).afterTest st u
  let part := r.cores ≠ 0 || r.slices ≠ 0
  let out := if r.failed then 0x02 else if part then 0x01 else 0x00
  let fenced : Word32 := if st = 0x0A || st = 0x0B then (if r.failed && m = 1 then 1 else 0)
    else r.cores.setWidth 32 ||| (r.slices.setWidth 32 <<< 16)
  let s2 := s1.closeStep st u m a out (if r.failed || part then r.reason else 0) r.detail r.duration fenced
  if r.failed && mandatory st u then .halt (s2.mandatoryFail st u m r.reason) else .go s2

/-- The result of a step and unit in a report; one that is not listed passes. -/
def resultOf (rep : StartReport) (st u : Nat) : StepResult :=
  (rep.results.find? fun x => x.step = st && x.unit = u).getD
    { step := st, unit := u, failed := false, reason := 0, detail := 0, duration := 0, cores := 0, slices := 0 }

/-- LEAK_N has become active since input power was applied, by its filter (R458). -/
def State.leakEnters (s : State) : State :=
  if (s.hm.filter 3).active then s
  else (s.modFilter 3 fun f => { f with started := true, prev := true, hi := f.assert.toNat, lo := 0 }).enterOne 3

/-- One step on one unit: not attempted, skipped by R420, waiting for LEAK_N (R417), hanging until its limit (a result
that fails with reason 0x01), or run to its end. -/
def State.bootStep (s0 : State) (kind : Nat) (rep : StartReport) (st u : Nat) : StepEnd :=
  let s := if st = 0x08 && rep.leak then s0.leakEnters else s0
  let (m, a) := s.boot.method st u
  let r := resultOf rep st u
  if s.notAttempted kind st u then .go (((s.skipEffect st u).afterTest st u).closeStep st u 2 0 0x04 0x07 0 0 0)
  else if m = 2 then .go (((s.skipEffect st u).afterTest st u).closeStep st u 2 0 0x04 0 0 0 0)
  else
    let s1 := s.beforeTest st u
    if (st = 0x08 && (s1.hm.filter 3).active) || (r.failed && r.reason = 0x01) then
      .halt { s1 with boot := { s1.boot.add (.step st u s1.boot.start m a 0xFF 0 0 0 0) with
        at_ := some (st, u), rep := some rep } }
    else s1.endStep kind st u m a rep r

/-- The steps of a start from a list on. -/
def runSteps (kind : Nat) (rep : StartReport) : List (Nat × Nat) → State → State
  | [], s => s
  | (st, u) :: t, s => match s.bootStep kind rep st u with
    | .go s' => runSteps kind rep t s'
    | .halt s' => s'

/-- The steps after one step and unit. -/
def stepsAfter (kind st u : Nat) : List (Nat × Nat) := ((stepsOf kind).dropWhile (· ≠ (st, u))).drop 1

/-! ### What a start resets (R414 Table 2) -/

/-- Every island but Hallmark at reset, with the fences of the fence list (R327). -/
def State.resetIslands (s : State) : State :=
  let s1 := { s with cores := [], islands := [], packages := [], spines := [], ports := [], signals := []
                     fenceDue := [], lostClocks := [], boot := { s.boot with withheldSites := [] } }
  s1.boot.fences.foldl (fun s f =>
    let i := islandOf f.2.1
    let k := posOf f.2.1
    if f.1 = 2 then s.modPkg f.2.1 fun x => { x with fenced := true }
    else if f.1 = 1 then s.modIsland i fun x => { x with sliceFence := setFld x.sliceFence k k 1 }
    else (s.modCore f.2.1 fun c => { c with fenced := true }).modIsland i fun x =>
      { x with coreFence := setFld x.coreFence k k 1 }) s1

/-- The Hallmark block at reset: firmware store, fuses, log, sensor maxima, filter states and the hardware paths'
states are kept, as are the EEPROM's serial number and MAC address. -/
def Hallmark.blockReset (h : Hallmark) : Hallmark :=
  let k : Hallmark := {
    svn := h.svn, serial := h.serial, macAddr := h.macAddr, fuseMap := h.fuseMap, deviceSecret := h.deviceSecret
    fwKeyHash := h.fwKeyHash, jtagLock := h.jtagLock, osDigests := h.osDigests, railMv := h.railMv
    certChain := h.certChain, intakeAt := h.intakeAt, flowCount := h.flowCount, railFaults := h.railFaults
    sensors := h.sensors, throttleOk := h.throttleOk, log := h.log, logHead := h.logHead,
    ports := h.ports, hwQueue := h.hwQueue, cntBase := h.cntBase, keys := h.keys, drbg := h.drbg,
    running := h.flash, flash := h.flash, storedFilters := h.storedFilters, storedNet := h.storedNet,
    storedThresh := h.storedThresh, storedSlew := h.storedSlew, storedFloor := h.storedFloor, table := h.table,
    inForce := h.inForce, brake := h.brake, leak := h.leak, trip := h.trip, descending := h.descending,
    rising := h.rising, thermtrip := h.thermtrip, throttle := h.throttle
    filters := h.filters.map fun (x : Nat × Filter) =>
      let d := filterDefault x.1
      (x.1, { x.2 with release := d.release, assert := d.assert, minPulse := d.minPulse, alertAfter := d.alertAfter }) }
  k.drawAll

/-- Hallmark after input power is applied: only the firmware store, the fuses and the EEPROM last. -/
def Hallmark.powerOn (h : Hallmark) (now : Word) : Hallmark :=
  let k : Hallmark := {
    svn := h.svn, serial := h.serial, macAddr := h.macAddr, fuseMap := h.fuseMap, deviceSecret := h.deviceSecret
    fwKeyHash := h.fwKeyHash, jtagLock := h.jtagLock
    certChain := h.certChain, keys := h.keys, drbg := h.drbg, running := h.flash, flash := h.flash, cntBase := now
    storedFilters := h.storedFilters, storedNet := h.storedNet, storedThresh := h.storedThresh
    storedSlew := h.storedSlew, storedFloor := h.storedFloor, table := h.table, throttle := h.throttle }
  k.drawAll

/-- What a reset leaves of the units outside Hallmark (R414, R415): every port in Detect until its step 0x13, and, but at
power-on, every LPDDR5X package in self-refresh until it is trained. -/
def State.holdPorts (s : State) (refresh : Bool) : State :=
  let s1 := forEach (List.range 8) s fun s p => s.modPort p fun po => { po with held := true }
  if refresh then forEach (List.range 12) s1 fun s n => s.modPkg n fun x => { x with selfRef := true } else s1

/-- One start of a kind (R413, R414): what it resets, then its steps. -/
def State.start (s : State) (kind : Nat) (rep : StartReport) : State :=
  let s1 := if kind = 1 || kind = 2 || kind = 4 then
      forEach (List.range 8) s fun s p => (s.stopLoaded p 0x1C kind).unloadPlan p
    else s
  let s2 := if kind = 3 then s1 else s1.resetIslands
  let s3 := if kind = 0 then
      { s2 with mem := [], poisonWords := [], poisonLines := [], injected := [], errUnits := [], rewritten := []
                remaps := [], hm := s2.hm.powerOn s2.ticks }
    else if kind = 2 then s2
    else { s2 with hm := s2.hm.blockReset }
  let s4 := if kind = 3 then s3 else (s3.modHm fun h => { h with inForce := [], osDigests := [] }).holdPorts (kind ≠ 0)
  let b := s4.boot
  let s5 := { s4 with boot := { b with
    start := b.start + 1, kind := BitVec.ofNat 3 kind, ready := false, stopStep := 0, reason := 0, at_ := none
    restartDue := false, rep := none, resetDue := none, retestFailed := [], restarts := if kind = 4 then b.restarts + 1 else 0
    initialised := if kind = 0 then [] else b.initialised } }
  runSteps kind rep (stepsOf kind) s5

/-- A reset: one that comes while a step hangs or waits takes effect when that step's record is complete, and the first to
come is the one taken (R413). -/
def State.resetFor (s : State) (kind : Nat) (rep : StartReport) : State :=
  if s.boot.at_.isNone then s.start kind rep
  else { s with boot := { s.boot with resetDue := s.boot.resetDue.or (some (kind, rep)) } }

/-- Goes on from a step whose record is now complete: with the reset that waits for it, or with the later steps. -/
def State.goOn (s : State) (kind st u : Nat) (rep : StartReport) (e : StepEnd) : State :=
  match s.boot.resetDue, e with
  | some (k, r), .go t | some (k, r), .halt t => t.start k r
  | none, .go t => runSteps kind rep (stepsAfter kind st u) t
  | none, .halt t => t

/-! ### The reset rows -/

/-- An accepted HMP RESET performs its start after the response. -/
def State.hmpReset (s : State) (h : Hmp) (kind : Nat) (rep : StartReport) : State :=
  let r := s.serveDone h 0x0070 (leBytes 1 kind) (some 2) false fun s => { s }
  if r.2 then r.1.resetFor kind rep else r.1

def execModuleReset (h : Hmp) (report : StartReport) (s : State) : Outcome State Fault Refusal :=
  s.onUnit true fun s => s.hmpReset h 1 report

def execComputeReset (h : Hmp) (report : StartReport) (s : State) : Outcome State Fault Refusal :=
  s.onUnit true fun s => s.hmpReset h 2 report

def execHallmarkReset (h : Hmp) (report : StartReport) (s : State) : Outcome State Fault Refusal :=
  s.onUnit true fun s => s.hmpReset h 3 report

/-- HALLMARK_WATCHDOG_EXPIRY: the hardware watchdog on Hallmark firmware causes a Hallmark reset (R413). -/
def execHallmarkWatchdogExpiry (report : StartReport) (s : State) : Outcome State Fault Refusal :=
  s.onUnit true fun s => s.resetFor 3 report

/-- JOURNAL_RESTART: start-up restarts itself after a mandatory step failed (R418). -/
def execJournalRestart (report : StartReport) (s : State) : Outcome State Fault Refusal :=
  s.onUnit true fun s => if s.boot.restartDue then s.start 4 report else s

/-- The method and alt_run of the step that hangs, from its incomplete record. -/
def Boot.hanging (b : Boot) (st u : Nat) : Nat × Nat := ((latest b.records st u).map fun x => (x.1, x.2.1)).getD (0, 0)

/-- STARTUP_STEP_LIMIT: a step that hangs exceeds its limit, fails with reason 0x01, and start-up goes on (R417). The
count pauses while PWR_BRAKE_N or LEAK_N is active. -/
def execStartupStepLimit (step unit : Nat) (report : StartReport) (s : State) : Outcome State Fault Refusal :=
  s.onUnit true fun s =>
    if s.boot.at_ ≠ some (step, unit) || (s.hm.filter 0).active || (s.hm.filter 3).active then s
    else
      let kind := s.boot.kind.toNat
      let (m, a) := s.boot.hanging step unit
      let r := resultOf (s.boot.rep.getD report) step unit
      let s1 := { s with boot := { s.boot with at_ := none, rep := none } }
      s.goOn kind step unit report (s1.endStep kind step unit m a report { r with failed := true, reason := 0x01 })

/-- LEAK_N has left since `before`: step 0x08, which waited for it, runs to its end, unless it hangs, and the later steps
follow as the start's report says (R417). -/
def State.leakLeft (s before : State) : State :=
  match s.boot.at_, s.boot.rep with
  | some (0x08, u), some rep =>
    let r := resultOf rep 0x08 u
    if !(before.hm.filter 3).active || (s.hm.filter 3).active || (r.failed && r.reason = 0x01) then s
    else
      let kind := s.boot.kind.toNat
      let (m, a) := s.boot.hanging 0x08 u
      let s1 := { s with boot := { s.boot with at_ := none, rep := none } }
      s.goOn kind 0x08 u rep (s1.endStep kind 0x08 u m a rep r)
  | _, _ => s

/-- INPUT_FILTER_LEAVE: an input returns to INACTIVE. -/
def execInputFilterLeave (n : Nat) (s : State) : Outcome State Fault Refusal :=
  s.onUnit (n < 4) fun s => (s.filterLeave n).leakLeft s

/-- INPUT_SAMPLE: a sample of an input's pin. -/
def execInputSample (n : Nat) (low : Bool) (s : State) : Outcome State Fault Refusal :=
  s.onUnit (n < 5) fun s => (s.inputSample n low).leakLeft s

/-! ### The supply (R454–R457) -/

/-- The rails turn off in the reverse of the power-up order, rails 1 and 0 last (R457). -/
def railsOff (rails : BitVec 16) : BitVec 16 := (railOrder.reverse ++ [1, 0]).foldl (fun m r => setFld m r r 0) rails

/-- Everything that power holds is lost; what hardware holds low until input power is removed stays (R373, R457). -/
def State.powerOff (s : State) (inputGone : Bool) : State :=
  let s1 := s.resetIslands
  let h := s.hm.powerOn s.ticks
  { s1 with
    mem := [], poisonWords := [], poisonLines := [], injected := [], errUnits := [], rewritten := [], remaps := []
    hm := { h with thermtrip := s.hm.thermtrip && !inputGone }
    boot := { s1.boot with ready := false, initialised := [], at_ := none, rep := none, resetDue := none, restartDue := false
                           restarts := 0 }
    supply := { s.supply with on := false, charging := false, retryWait := false, rails := railsOff s.supply.rails } }

/-- A command of the supply, which works while the module is off. -/
def State.onSupply (s : State) (f : State → State) : Outcome State Fault Refusal := .next (f s).settleFences

/-- The hot-swap stage may run: EN joined, the input risen through its turn-on level, no over-voltage, and no thermal trip
since input power was last removed (R447, R454, R413). -/
def Supply.mayRun (u : Supply) : Bool := u.en && u.inputOk && !u.overVolt && !u.lockedOff

/-- The stage starts the inrush charge where it may run and the module is off. -/
def Supply.charge (u : Supply) : Supply := if u.mayRun && !u.on then { u with charging := true, retryWait := false } else u

/-- EN_JOINED: EN is joined, and with the input up the hot-swap stage starts the inrush charge. -/
def execEnJoined (s : State) : Outcome State Fault Refusal :=
  s.onSupply fun s => { s with supply := ({ s.supply with en := true } : Supply).charge }

/-- INPUT_TURN_ON: the input rises through 46.0 V, or falls through 56.0 V after an over-voltage turn-off; with EN joined
the stage starts the inrush charge. -/
def execInputTurnOn (s : State) : Outcome State Fault Refusal :=
  s.onSupply fun s => { s with supply := ({ s.supply with inputOk := true, overVolt := false } : Supply).charge }

/-- INPUT_POWER_GOOD: the capacitance is charged, rails 0 and 1 come on, and a power-on start begins (R456). -/
def execInputPowerGood (report : StartReport) (s : State) : Outcome State Fault Refusal :=
  s.onSupply fun s =>
    if !s.supply.charging then s
    else
      let s1 := { s with supply := { s.supply with charging := false, on := true, rails := 3 } }
      s1.start 0 report

/-- INRUSH_TIMEOUT: charging is incomplete 80 ms after EN is joined. -/
def execInrushTimeout (s : State) : Outcome State Fault Refusal :=
  s.onSupply fun s =>
    if s.supply.charging then { s with supply := { s.supply with charging := false, retryWait := true } } else s

/-- INRUSH_RETRY: one second after an inrush failure the stage retries. -/
def execInrushRetry (s : State) : Outcome State Fault Refusal :=
  s.onSupply fun s =>
    if s.supply.retryWait then { s with supply := s.supply.charge } else s

/-- INPUT_LOSS: loss of input, removal of EN or an input below 44.0 V turns every rail off. Which of them it is, the command
does not say, so a free value says whether EN has been removed or the input has gone; for the thermal lock-off all of
them remove input power (log entry 74). -/
def execInputLoss (s : State) : Outcome State Fault Refusal :=
  s.onSupply fun s =>
    let w := s.freeWord.1
    let s1 := s.freeWord.2.powerOff true
    { s1 with supply := { s1.supply with
      en := s1.supply.en && !w.getLsbD 0, inputOk := s1.supply.inputOk && w.getLsbD 0, lockedOff := false } }

/-- OVER_VOLTAGE: the input rises above 57.0 V. -/
def execOverVoltage (s : State) : Outcome State Fault Refusal :=
  s.onSupply fun s =>
    let s1 := s.powerOff false
    { s1 with supply := { s1.supply with overVolt := true } }

/-- THERMTRIP_TURN_OFF: 200 µs after a trip the hot-swap stage turns the module off; it stays off until input power is
removed (R410, R413). -/
def execThermtripTurnOff (s : State) : Outcome State Fault Refusal :=
  s.onSupply fun s =>
    if !s.hm.trip then s
    else
      let s1 := s.powerOff false
      { s1 with supply := { s1.supply with lockedOff := true } }

end Sys2Proof.Machine
end

