-- ==== Sys2Proof/Machine/Control.lean ====
section
/-! DEFINITION. The control class (R299), the events of tasks and signals (R45, R52, R54, R61), and the completion of
memory accesses (R46). -/

namespace Sys2Proof.Machine

open Host (Outcome)

/-! ### Control instructions -/

/-- ctl.nop: none. -/
def execCtlNop (i : Issue) (o : FZ) (s : State) : Outcome State Fault Refusal :=
  issue (.ctlNop i o) i [] (fun _ s => .next s) s

/-- ctl.halt: the context becomes HALTED (R44). -/
def execCtlHalt (i : Issue) (o : FZ) (s : State) : Outcome State Fault Refusal :=
  issue (.ctlHalt i o) i [] (fun _ s => .halt s) s

/-- ctl.br tgt: pc := tgt. -/
def execCtlBr (i : Issue) (o : FB) (s : State) : Outcome State Fault Refusal :=
  issue (.ctlBr i o) i [] (fun _ s => .jump o.tgt s) s

/-- ctl.jal rd, tgt: rd := pc + 1, then pc := tgt. -/
def execCtlJal (i : Issue) (o : FB) (s : State) : Outcome State Fault Refusal :=
  issue (.ctlJal i o) i [o.rd.toNat]
    (fun f s => .jump o.tgt (s.modThread f fun t => t.setReg o.rd.toNat ((f.t.pc + 1).setWidth 64))) s

/-- ctl.jr ra: pc := bits 13:0 of ra. -/
def execCtlJr (i : Issue) (o : FB) (s : State) : Outcome State Fault Refusal :=
  issue (.ctlJr i o) i [o.ra.toNat] (fun f s => .jump ((f.t.reg o.ra.toNat).setWidth 14) s) s

/-- ctl.whl k: seg_next := k (R50). -/
def execCtlWhl (i : Issue) (o : FK) (s : State) : Outcome State Fault Refusal :=
  issue (.ctlWhl i o) i [] (fun f s => .next (s.modCore f.site fun c => { c with segNext := o.k.toNat })) s

/-- The barrier after an arrival of a context (R59): released when its count reaches n, and then every waiting context
may go on. -/
def Core.arriveBarrier (c : Core) (b n task ctx : Nat) : Core :=
  let x := FMap.getD c.bars b {}
  if n ≤ x.count + 1 then
    let c1 := x.waiters.foldl (fun c k => c.setThread k { c.thread k with waiting := none }) c
    { c1 with bars := FMap.insert b {} c1.bars }
  else
    let c1 := c.setThread ctx { c.thread ctx with waiting := some b }
    { c1 with bars := FMap.insert b { count := x.count + 1, task := task, waiters := x.waiters ++ [ctx] } c1.bars }

/-- ctl.bar b, n: an arrival at barrier register b; cause 0x06 when its arrivals come from another task (R59). -/
def execCtlBar (i : Issue) (o : FK) (s : State) : Outcome State Fault Refusal :=
  issue (.ctlBar i o) i []
    (fun f s =>
      let b := o.k.toNat % 16
      let x := FMap.getD (s.core f.site).bars b {}
      if x.count ≠ 0 && x.task ≠ f.task then .abort 0x06
      else .next (s.modCore f.site fun c => c.arriveBarrier b o.n.toNat f.task f.ctx)) s

/-- ctl.sig c, k, n: a signal of n to slot k of plan-relative core c, behind the thread's earlier writes (R60, R61);
cause 0x01 when the layout has no such core. -/
def execCtlSig (i : Issue) (o : FK) (s : State) : Outcome State Fault Refusal :=
  issue (.ctlSig i o) i [2, o.ra.toNat]
    (fun f s =>
      let core := if o.cr = 1 then (f.t.reg o.ra.toNat).toNat % 512 else o.c.toNat
      match (s.spine f.allot).plan with
      | none => .abort 0x01
      | some pl =>
        if pl.cores ≤ core then .abort 0x01
        else .next (s.sendSignal {
          src := srcThread f.site f.ctx, srcSite := f.site, after := (s.core f.site).writesOf fun k _ => k = f.ctx
          dst := fld (FMap.getD (s.core f.site).binding core 0) 9 0, slot := o.k.toNat, n := o.n.toNat
          step := f.t.reg 2 })) s

/-- Takes n counts from a slot. -/
def Core.takeCounts (c : Core) (slot n : Nat) : Core :=
  let x := FMap.getD c.slots slot {}
  { c with slots := FMap.insert slot { x with count := x.count - n } c.slots }

/-- ctl.swt k, n: ready when slot k holds at least n, and subtracts n (R60). -/
def execCtlSwt (i : Issue) (o : FK) (s : State) : Outcome State Fault Refusal :=
  issue (.ctlSwt i o) i []
    (fun f s =>
      if (FMap.getD (s.core f.site).slots o.k.toNat {}).count < o.n.toNat then .stall
      else .next (s.modCore f.site fun c => c.takeCounts o.k.toNat o.n.toNat)) s

/-! ### Tasks and signals -/

/-- TASK_START: the wheel of a site has reached an entry whose context is not ACTIVE and whose task is pending, and
starts that task (R45, R49). A restart comes before a later firing (R58). -/
def execTaskStart (site : Nat) (s : State) : Outcome State Fault Refusal :=
  s.onSite site fun s =>
    let c := s.core site
    let ctx := c.wheelCtx
    match c.taskOf ctx with
    | none => s
    | some task =>
      let run := c.run task
      if !s.wheelRuns site || (c.thread ctx).st = .active || run.live then s
      else match run.restart, run.pending with
      | some n, _ | none, some n =>
        s.beginTask site task n
      | none, none => s

/-- TRIGGER_FIRE: the slot of a task with trigger 1 holds trig_count, and the core takes the count and fires the task
with the slot's recorded step (R54, R62). -/
def execTriggerFire (site task : Nat) (s : State) : Outcome State Fault Refusal :=
  s.onUnit (decide (site < 576) && decide (task < 32)) fun s =>
    let c := s.core site
    let e := c.task task
    let x := FMap.getD c.slots (teTrigSlot e) {}
    if !c.bound || c.hold || teTrigger e ≠ 1 || x.count < teTrigCount e then s
    else (s.modCore site fun c => c.takeCounts (teTrigSlot e) (teTrigCount e)).fire site task x.step

/-- WHEEL_WATCHDOG: the count of a stalled entry has reached 2^wdog_log2 (R52). -/
def execWheelWatchdog (site : Nat) (s : State) : Outcome State Fault Refusal :=
  s.onSite site fun s =>
    let c := s.core site
    if !s.wheelRuns site || !c.stall || (c.thread c.wheelCtx).st ≠ .active then s
    else s.watchdog site c.wheelCtx

/-- Whether none of a signal's writes is still in flight (R61). -/
def Signal.ready (s : State) (g : Signal) : Bool :=
  let c := s.core g.srcSite
  g.after.all fun k => !(c.inflight.any fun o => o.id = k) &&
    !([c.ta, c.tb].any fun t => match t.drain with | some d => d.opId = k | none => false)

/-- SIGNAL_DELIVERY: the index-th signal on its way arrives, once its writes are complete and no earlier signal of its
sender to its slot is still on its way (R61). -/
def execSignalDelivery (index : Nat) (s : State) : Outcome State Fault Refusal :=
  s.onUnit true fun s =>
    match s.signals[index]? with
    | none => s
    | some g =>
      let first := !((s.signals.take index).any fun h => h.src = g.src && h.dst = g.dst && h.slot = g.slot)
      if first && g.ready s then { s with signals := s.signals.eraseIdx index }.arrive g else s

/-- MEMORY_ACCESS_COMPLETE: the oldest operation of a context on a scoreboard entry completes. The memory pipe works in
order (R228, R242), an up.acc completes by
UP_ACC_APPLY and a capture by CAPTURE_COMPLETE. sb 8 names operations of an earlier start of the task. -/
def execMemoryAccessComplete (site ctx sb : Nat) (check : ReadCheck) (s : State) : Outcome State Fault Refusal :=
  s.onSite site fun s =>
    let c := s.core site
    match c.inflight.find? fun o => o.ctx = ctx && o.sb = sb with
    | none => s
    | some o =>
      let isVmem (o : MemOp) : Bool := match o.kind with | .vmem _ => true | _ => false
      let blocked := isVmem o && match c.inflight.find? isVmem with | some x => x.id ≠ o.id | none => false
      match o.kind with
      | .upAcc _ | .capture => s
      | _ => if blocked then s else s.completeOp site o check

end Sys2Proof.Machine
end

