-- ==== Sys2Proof/Machine/Vector.lean ====
section
/-! DEFINITION. The arithmetic pipe of the vector engine (R226–R233, R235–R239, R243–R245, R303, R304) and the random
masks (R187, R307). Sources are read and results formed at issue; VECTOR_COMPLETE writes them. -/

namespace Sys2Proof.Machine

open Host (Outcome)

/-! ### Issue -/

/-- What an arithmetic-pipe instruction will write: elements of vd, a scalar register, flags, and invalid lanes. -/
structure VecOut where
  vd : Option Nat := none
  elems : FMap Word32 := []
  sd : Option (Nat × Word) := none
  flags : BitVec 5 := 0
  lanes : Nat := 0

/-- Vector registers that an issued instruction of the core has still to write (R228). -/
def Core.pendingV (c : Core) : List Nat :=
  (c.vArith.filterMap fun v => v.vd) ++
  (c.inflight.filterMap fun o => match o.kind with
    | .vmem v => if v.op = .ld || v.op = .gth then some v.vr else none
    | .pop vd _ _ _ _ => some vd
    | _ => none)

/-- The operation that VecOut becomes in the pipe. -/
def VecOut.op (r : VecOut) (ctx : Nat) : VecOp :=
  { ctx, vd := r.vd, elems := r.elems, sd := r.sd, flags := r.flags, lanes := r.lanes }

/-- An arithmetic-pipe instruction with count n from cs and cnt: it stalls while a vector register it names is pending
(R228), and with n = 0 it does nothing (R230). -/
def vector (x : Instr) (i : Issue) (cs : BitVec 1) (cnt : BitVec 12) (vr sr : List Nat)
    (f : Offer → State → Nat → Except Nat VecOut) (s : State) : Outcome State Fault Refusal :=
  issue x i (countReg cs cnt :: sr)
    (fun k s =>
      let c := s.core k.site
      if vr.any fun v => c.pendingV.contains v then .stall
      else
        let n := countOf k cs cnt
        if n = 0 then .next s
        else match f k s n with
        | .error cause => .abort cause
        | .ok r => .next (s.setCore k.site { c with vArith := c.vArith ++ [r.op k.ctx] })) s

/-- Elements 0 to n − 1 of a result with the flags they set (R91). -/
def vmap (n : Nat) (f : Nat → Word32 × Flags) : FMap Word32 × Flags :=
  let r := (List.range n).map fun i => (i, f i)
  (r.map fun x => (x.1, x.2.1), r.foldl (fun a x => a ||| x.2.2) 0)

/-- An element as its type keeps it: 16-bit types write 0 to bits 31:16 (R226). -/
def narrow (ty : Nat) (x : Word32) : Word32 := if ty < 2 then x else x &&& 0xFFFF

/-- Operand b of format V (R232): a vector element, or bits of a scalar register for every element. -/
def FV.opB (o : FV) (k : Offer) (c : Core) (i : Nat) : Word32 :=
  if o.bs = 1 then (k.t.reg (o.vb.toNat % 16)).setWidth 32 else c.velem o.vb.toNat i

/-- Vector registers of operand b, and scalar registers, of an instruction with n source operands. -/
def FV.vecB (o : FV) (n : Nat) : List Nat := if n = 1 || o.bs = 1 then [] else [o.vb.toNat]
def FV.regB (o : FV) (n : Nat) : List Nat := if n ≠ 1 && o.bs = 1 then [o.vb.toNat % 16] else []

/-- An element-wise instruction of format V with one, two or three source operands: f takes the index and the elements of
a, b and c. -/
def elementwise (x : Instr) (i : Issue) (o : FV) (srcs : Nat)
    (f : Offer → State → Nat → Word32 → Word32 → Word32 → Word32 × Flags) (s : State) : Outcome State Fault Refusal :=
  vector x i o.cs o.cnt ([o.vd.toNat, o.va.toNat] ++ FV.vecB o srcs ++ (if srcs = 3 then [o.vc.toNat] else []))
    (FV.regB o srcs ++ srRegs o.rm)
    (fun k s n =>
      let c := s.core k.site
      let r := vmap n fun j => f k s j (c.velem o.va.toNat j) (FV.opB o k c j)
        (if srcs = 3 then c.velem o.vc.toNat j else 0)
      .ok { vd := some o.vd.toNat, elems := r.1, flags := r.2 }) s

/-- The result of an exact operation, rounded once into type ty (R94, R232). -/
def fpResult (ty : Nat) (md : Rnd) (ieee : Bool) (args : List Val) (r : Val) : Word32 × Flags :=
  let (v, fl) := roundOp (tyFmt ty) md ieee args r
  (BitVec.ofNat 32 ((tyFmt ty).encode v), fl)

/-- An INT32 result that saturates and then sets overflow (R232). -/
def int32Result (x : Int) : Word32 × Flags :=
  let y := satI x (intMin 32) (intMax 32)
  (BitVec.ofInt 32 y, fIf (y ≠ x) fOverflow)

/-- A two-operand operation on every type: fp on values, int on integers. -/
def arith2 (x : Instr) (i : Issue) (o : FV) (fp : Val → Val → Val) (int : Int → Int → Int) (s : State) :
    Outcome State Fault Refusal :=
  elementwise x i o 2 (fun k s j a b _ =>
    let ty := o.ty.toNat
    if ty = 1 then int32Result (int a.toInt b.toInt)
    else
      let (u, v) := ((regElem ty a).val, (regElem ty b).val)
      fpResult ty (rndOf o.rm.toNat (srKeyOf s k) j) (o.ieee = 1) [u, v] (fp u v)) s

/-- A one-operand floating-point operation, correctly rounded (R233). -/
def arith1 (x : Instr) (i : Issue) (o : FV) (fp : Val → Val) (s : State) : Outcome State Fault Refusal :=
  elementwise x i o 1 (fun k s j a _ _ =>
    let u := (regElem o.ty.toNat a).val
    fpResult o.ty.toNat (rndOf o.rm.toNat (srKeyOf s k) j) (o.ieee = 1) [u] (fp u)) s

/-- A wrapping or bitwise INT32 operation without flags. -/
def intOp (x : Instr) (i : Issue) (o : FV) (f : Word32 → Word32 → Word32) (s : State) : Outcome State Fault Refusal :=
  elementwise x i o 2 (fun _ _ _ a b _ => (f a b, 0)) s

/-- Maximum or minimum (R92). -/
def extremum (x : Instr) (i : Issue) (o : FV) (fp : Val → Val → Val) (int : Int → Int → Int) (s : State) :
    Outcome State Fault Refusal :=
  elementwise x i o 2 (fun _ _ _ a b _ =>
    let ty := o.ty.toNat
    if ty = 1 then (BitVec.ofInt 32 (int a.toInt b.toInt), 0)
    else
      let (u, v) := ((regElem ty a).val, (regElem ty b).val)
      (BitVec.ofNat 32 ((tyFmt ty).encode (fp u v)), fIf (u.isNan || v.isNan) fNan)) s

/-- Sign operations: fp on the sign, int saturating (R232); a NaN gives the canonical NaN. -/
def signOp (x : Instr) (i : Issue) (o : FV) (fp : Val → Val) (int : Int → Int) (s : State) :
    Outcome State Fault Refusal :=
  elementwise x i o 1 (fun _ _ _ a _ _ =>
    let ty := o.ty.toNat
    if ty = 1 then int32Result (int a.toInt)
    else
      let u := (regElem ty a).val
      (BitVec.ofNat 32 ((tyFmt ty).encode (fp u)), fIf u.isNan fNan)) s

/-- A comparison writes an INT32 mask (R93, R235). -/
def compareOp (x : Instr) (i : Issue) (o : FV) (fp : Val → Val → Bool) (int : Int → Int → Bool) (s : State) :
    Outcome State Fault Refusal :=
  elementwise x i o 2 (fun _ _ _ a b _ =>
    let ty := o.ty.toNat
    if ty = 1 then (BitVec.ofNat 32 (b2n (int a.toInt b.toInt)), 0)
    else
      let (u, v) := ((regElem ty a).val, (regElem ty b).val)
      (BitVec.ofNat 32 (b2n (fp u v)), fIf (u.isNan || v.isNan) fNan)) s

/-- The absolute value of a value. -/
def Val.abs : Val → Val
  | .nan => .nan
  | .inf _ => .inf false
  | .fin _ m q => .fin false m q

/-! ### Element-wise instructions (R232, R233, R235) -/

/-- v.add: a + b. -/
def execVAdd (i : Issue) (o : FV) (s : State) : Outcome State Fault Refusal :=
  arith2 (.vAdd i o) i o Val.add (· + ·) s

/-- v.sub: a − b. -/
def execVSub (i : Issue) (o : FV) (s : State) : Outcome State Fault Refusal :=
  arith2 (.vSub i o) i o Val.sub (· - ·) s

/-- v.mul: a × b. -/
def execVMul (i : Issue) (o : FV) (s : State) : Outcome State Fault Refusal :=
  arith2 (.vMul i o) i o Val.mul (· * ·) s

/-- v.fma: a × b + c with one rounding. -/
def execVFma (i : Issue) (o : FV) (s : State) : Outcome State Fault Refusal :=
  elementwise (.vFma i o) i o 3 (fun k s j a b c =>
    let ty := o.ty.toNat
    let (u, v, w) := ((regElem ty a).val, (regElem ty b).val, (regElem ty c).val)
    fpResult ty (rndOf o.rm.toNat (srKeyOf s k) j) (o.ieee = 1) [u, v, w] ((u.mul v).add w)) s

/-- v.max: fmax of R92. -/
def execVMax (i : Issue) (o : FV) (s : State) : Outcome State Fault Refusal :=
  extremum (.vMax i o) i o fmax (fun a b => if a < b then b else a) s

/-- v.min: fmin of R92. -/
def execVMin (i : Issue) (o : FV) (s : State) : Outcome State Fault Refusal :=
  extremum (.vMin i o) i o fmin (fun a b => if a < b then a else b) s

/-- v.abs: the sign bit cleared, or |a|. -/
def execVAbs (i : Issue) (o : FV) (s : State) : Outcome State Fault Refusal :=
  signOp (.vAbs i o) i o Val.abs (fun a => (a.natAbs : Int)) s

/-- v.neg: the sign bit inverted, or −a. -/
def execVNeg (i : Issue) (o : FV) (s : State) : Outcome State Fault Refusal :=
  signOp (.vNeg i o) i o Val.neg (fun a => -a) s

/-- v.div: a ÷ b, correctly rounded. -/
def execVDiv (i : Issue) (o : FV) (s : State) : Outcome State Fault Refusal :=
  elementwise (.vDiv i o) i o 2 (fun k s j a b _ =>
    let ty := o.ty.toNat
    let (v, f) := fpDiv (tyFmt ty) (rndOf o.rm.toNat (srKeyOf s k) j) (o.ieee = 1) (regElem ty a).val (regElem ty b).val
    (BitVec.ofNat 32 ((tyFmt ty).encode v), f)) s

/-- v.sqrt: the square root, correctly rounded. -/
def execVSqrt (i : Issue) (o : FV) (s : State) : Outcome State Fault Refusal :=
  arith1 (.vSqrt i o) i o Val.sqrt s

/-- v.exp2: 2^a, correctly rounded. -/
def execVExp2 (i : Issue) (o : FV) (s : State) : Outcome State Fault Refusal :=
  arith1 (.vExp2 i o) i o Val.exp2 s

/-- v.log2: log₂ a, correctly rounded. -/
def execVLog2 (i : Issue) (o : FV) (s : State) : Outcome State Fault Refusal :=
  arith1 (.vLog2 i o) i o Val.log2 s

/-- v.iadd: a + b, wrapping. -/
def execVIadd (i : Issue) (o : FV) (s : State) : Outcome State Fault Refusal :=
  intOp (.vIadd i o) i o (· + ·) s

/-- v.isub: a − b, wrapping. -/
def execVIsub (i : Issue) (o : FV) (s : State) : Outcome State Fault Refusal :=
  intOp (.vIsub i o) i o (· - ·) s

/-- v.imul: the low 32 bits of a × b. -/
def execVImul (i : Issue) (o : FV) (s : State) : Outcome State Fault Refusal :=
  intOp (.vImul i o) i o (· * ·) s

/-- v.and: bitwise and. -/
def execVAnd (i : Issue) (o : FV) (s : State) : Outcome State Fault Refusal :=
  intOp (.vAnd i o) i o (· &&& ·) s

/-- v.or: bitwise or. -/
def execVOr (i : Issue) (o : FV) (s : State) : Outcome State Fault Refusal :=
  intOp (.vOr i o) i o (· ||| ·) s

/-- v.xor: bitwise exclusive or. -/
def execVXor (i : Issue) (o : FV) (s : State) : Outcome State Fault Refusal :=
  intOp (.vXor i o) i o (· ^^^ ·) s

/-- v.shl: a shifted left by b mod 32. -/
def execVShl (i : Issue) (o : FV) (s : State) : Outcome State Fault Refusal :=
  intOp (.vShl i o) i o (fun a b => a <<< (b.toNat % 32)) s

/-- v.shr: a shifted right arithmetically by b mod 32. -/
def execVShr (i : Issue) (o : FV) (s : State) : Outcome State Fault Refusal :=
  intOp (.vShr i o) i o (fun a b => a.sshiftRight (b.toNat % 32)) s

/-- v.shru: a shifted right logically by b mod 32. -/
def execVShru (i : Issue) (o : FV) (s : State) : Outcome State Fault Refusal :=
  intOp (.vShru i o) i o (fun a b => a >>> (b.toNat % 32)) s

/-- v.cvt: from type ty to the type in vc (R82–R89). -/
def execVCvt (i : Issue) (o : FV) (s : State) : Outcome State Fault Refusal :=
  elementwise (.vCvt i o) i o 1 (fun k s j a _ _ =>
    toReg (o.vc.toNat % 4) (rndOf o.rm.toNat (srKeyOf s k) j) (o.ieee = 1) (regElem o.ty.toNat a)) s

/-- v.ceq: 1 where a = b. -/
def execVCeq (i : Issue) (o : FV) (s : State) : Outcome State Fault Refusal :=
  compareOp (.vCeq i o) i o (fun u v => u.eqv v) (fun a b => decide (a = b)) s

/-- v.cne: 1 where a ≠ b or unordered. -/
def execVCne (i : Issue) (o : FV) (s : State) : Outcome State Fault Refusal :=
  compareOp (.vCne i o) i o (fun u v => !u.eqv v) (fun a b => decide (a ≠ b)) s

/-- v.clt: 1 where a < b. -/
def execVClt (i : Issue) (o : FV) (s : State) : Outcome State Fault Refusal :=
  compareOp (.vClt i o) i o (fun u v => u.lt v) (fun a b => decide (a < b)) s

/-- v.cle: 1 where a ≤ b. -/
def execVCle (i : Issue) (o : FV) (s : State) : Outcome State Fault Refusal :=
  compareOp (.vCle i o) i o (fun u v => u.lt v || u.eqv v) (fun a b => decide (a ≤ b)) s

/-- v.cgt: 1 where a > b. -/
def execVCgt (i : Issue) (o : FV) (s : State) : Outcome State Fault Refusal :=
  compareOp (.vCgt i o) i o (fun u v => v.lt u) (fun a b => decide (b < a)) s

/-- v.cge: 1 where a ≥ b. -/
def execVCge (i : Issue) (o : FV) (s : State) : Outcome State Fault Refusal :=
  compareOp (.vCge i o) i o (fun u v => v.lt u || u.eqv v) (fun a b => decide (b ≤ a)) s

/-- v.cun: 1 where a or b is a NaN. -/
def execVCun (i : Issue) (o : FV) (s : State) : Outcome State Fault Refusal :=
  compareOp (.vCun i o) i o (fun u v => u.isNan || v.isNan) (fun _ _ => false) s

/-- v.sel: a where the mask in vc is true, b where it is not. -/
def execVSel (i : Issue) (o : FV) (s : State) : Outcome State Fault Refusal :=
  elementwise (.vSel i o) i o 3 (fun _ _ _ a b m => (narrow o.ty.toNat (if m ≠ 0 then a else b), 0)) s

/-! ### Compress, expand and permute (R236–R239, R304) -/

/-- v.pack: the elements where the mask in vb is true, in order, and their number in sd. -/
def execVPack (i : Issue) (o : FV) (s : State) : Outcome State Fault Refusal :=
  vector (.vPack i o) i o.cs o.cnt [o.vd.toNat, o.va.toNat, o.vb.toNat] [o.vc.toNat % 16]
    (fun k s n =>
      let c := s.core k.site
      let kept := (List.range n).filter fun j => c.velem o.vb.toNat j ≠ 0
      let r := vmap kept.length fun j => (narrow o.ty.toNat (c.velem o.va.toNat (kept.getD j 0)), 0)
      .ok { vd := some o.vd.toNat, elems := r.1, sd := some (o.vc.toNat % 16, BitVec.ofNat 64 kept.length) }) s

/-- v.unpk: the next source element where the mask in vb is true, 0 where it is not. -/
def execVUnpk (i : Issue) (o : FV) (s : State) : Outcome State Fault Refusal :=
  vector (.vUnpk i o) i o.cs o.cnt [o.vd.toNat, o.va.toNat, o.vb.toNat] []
    (fun k s n =>
      let c := s.core k.site
      let r := vmap n fun j =>
        if c.velem o.vb.toNat j = 0 then (0, 0)
        else (narrow o.ty.toNat (c.velem o.va.toNat ((List.range j).countP fun x => c.velem o.vb.toNat x ≠ 0)), 0)
      .ok { vd := some o.vd.toNat, elems := r.1 }) s

/-- v.perm: element vx[i], or 0 with the invalid flag where the lane is not in [0, n). -/
def execVPerm (i : Issue) (o : FV) (s : State) : Outcome State Fault Refusal :=
  vector (.vPerm i o) i o.cs o.cnt [o.vd.toNat, o.va.toNat, o.vb.toNat] []
    (fun k s n =>
      let c := s.core k.site
      let ok (j : Nat) : Bool := (c.velem o.vb.toNat j).toNat < n
      let r := vmap n fun j =>
        if ok j then (narrow o.ty.toNat (c.velem o.va.toNat (c.velem o.vb.toNat j).toNat), 0) else (0, fInvalid)
      .ok { vd := some o.vd.toNat, elems := r.1, flags := r.2, lanes := (List.range n).countP fun j => !ok j }) s

/-- v.bcast: element k of va to every element, k from bits 11:0 of a scalar register. -/
def execVBcast (i : Issue) (o : FV) (s : State) : Outcome State Fault Refusal :=
  vector (.vBcast i o) i o.cs o.cnt [o.vd.toNat, o.va.toNat] [o.vb.toNat % 16]
    (fun k s n =>
      let x := (s.core k.site).velem o.va.toNat ((k.t.reg (o.vb.toNat % 16)).toNat % 4096)
      .ok { vd := some o.vd.toNat, elems := (vmap n fun _ => (narrow o.ty.toNat x, 0)).1 }) s

/-- v.tr32: each 32 × 32 block transposed; a count that is no multiple of 1,024 is reserved. -/
def execVTr32 (i : Issue) (o : FV) (s : State) : Outcome State Fault Refusal :=
  vector (.vTr32 i o) i o.cs o.cnt [o.vd.toNat, o.va.toNat] []
    (fun k s n =>
      let c := s.core k.site
      if n % 1024 ≠ 0 then .error 0x04
      else .ok { vd := some o.vd.toNat, elems := (vmap n fun j =>
        (narrow o.ty.toNat (c.velem o.va.toNat (j / 1024 * 1024 + 32 * (j % 32) + j % 1024 / 32)), 0)).1 }) s

/-- v.ins: element k of vd from the value register, k from bits 11:0 of the register in va. -/
def execVIns (i : Issue) (o : FV) (s : State) : Outcome State Fault Refusal :=
  vector (.vIns i o) i o.cs o.cnt [o.vd.toNat] [o.va.toNat % 16, o.vb.toNat % 16]
    (fun k _ _ => .ok {
      vd := some o.vd.toNat
      elems := [((k.t.reg (o.va.toNat % 16)).toNat % 4096,
                 narrow o.ty.toNat ((k.t.reg (o.vb.toNat % 16)).setWidth 32))] }) s

/-! ### Reductions (R235, R243, R244) -/

/-- The initial value of a floating-point reduction: the FP32 value in bits 31:0 of ri. -/
def initial (k : Offer) (ri : BitVec 4) : Val := val32 ((k.t.reg ri.toNat).setWidth 32)

/-- Chunk values added to an initial value in ascending order, with flags (R112, R113, R243). -/
def sumChunks (ieee : Bool) (init : Val) (n : Nat) (p : Nat → Val) : Val × Flags :=
  (List.range (ceilDiv n 32)).foldl (fun (acc : Val × Flags) q =>
    let ps := (List.range (min 32 (n - 32 * q))).map fun j => p (32 * q + j)
    match chunkValue ps with
    | none => acc
    | some (v, st) =>
      let (r, f) := accAdd ieee acc.1 v
      let both := ps.contains (.inf false) && ps.contains (.inf true)
      (r, acc.2 ||| f ||| fIf st fInexact ||| fIf both fInvalid)) (init, 0)

/-- A reduction by sums of products: terms gives the factors of element j. -/
def reduceSum (x : Instr) (i : Issue) (o : FVR) (vr : List Nat) (isInt : Bool) (terms : Core → Nat → List Elem)
    (s : State) : Outcome State Fault Refusal :=
  vector x i o.cs o.cnt vr [o.rd.toNat, o.ri.toNat]
    (fun k s n =>
      let c := s.core k.site
      let ieee := decide (o.ieee = 1)
      if isInt then
        let prod (j : Nat) : Int := (terms c j).foldl (fun a e => match e with | .int x => a * x | .fp _ => a) 1
        let sum := (List.range n).foldl (fun a j => a + prod j) (k.t.reg o.ri.toNat).toInt
        let y := satI sum (intMin 64) (intMax 64)
        .ok { sd := some (o.rd.toNat, BitVec.ofInt 64 y), flags := fIf (y ≠ sum) fOverflow }
      else
        let prod (j : Nat) : Val := (terms c j).foldl (fun a e => a.mul e.val) Val.one
        let f0 := (List.range n).foldl (fun (a : Flags) j =>
          a ||| opFlags ((terms c j).map Elem.val) (prod j)) (fIf (initial k o.ri).isNan fNan)
        let (v, f) := sumChunks ieee (initial k o.ri) n prod
        .ok { sd := some (o.rd.toNat, (bits32 v).setWidth 64), flags := f0 ||| f }) s

/-- v.sum: the sum of the elements. -/
def execVSum (i : Issue) (o : FVR) (s : State) : Outcome State Fault Refusal :=
  reduceSum (.vSum i o) i o [o.va.toNat] (o.ty = 1) (fun c j => [regElem o.ty.toNat (c.velem o.va.toNat j)]) s

/-- v.ssq: the sum of squares. -/
def execVSsq (i : Issue) (o : FVR) (s : State) : Outcome State Fault Refusal :=
  reduceSum (.vSsq i o) i o [o.va.toNat] (o.ty = 1)
    (fun c j => let e := regElem o.ty.toNat (c.velem o.va.toNat j); [e, e]) s

/-- v.dot: the sum of products of va and vb, which has type tb; the integer path when both are INT32. -/
def execVDot (i : Issue) (o : FVR) (s : State) : Outcome State Fault Refusal :=
  reduceSum (.vDot i o) i o [o.va.toNat, o.vb.toNat] (decide (o.ty = 1) && decide (o.tb = 1))
    (fun c j => [regElem o.ty.toNat (c.velem o.va.toNat j), regElem o.tb.toNat (c.velem o.vb.toNat j)]) s

/-- A fold of maximum or minimum from the initial value (R243). -/
def reduceFold (x : Instr) (i : Issue) (o : FVR) (fp : Val → Val → Val) (int : Int → Int → Int) (s : State) :
    Outcome State Fault Refusal :=
  vector x i o.cs o.cnt [o.va.toNat] [o.rd.toNat, o.ri.toNat]
    (fun k s n =>
      let c := s.core k.site
      let el (j : Nat) : Elem := regElem o.ty.toNat (c.velem o.va.toNat j)
      if o.ty = 1 then
        let r := (List.range n).foldl (fun a j => match el j with | .int x => int a x | .fp _ => a)
          (k.t.reg o.ri.toNat).toInt
        .ok { sd := some (o.rd.toNat, BitVec.ofInt 64 r) }
      else
        let v0 := initial k o.ri
        let r := (List.range n).foldl (fun a j => fp a (el j).val) v0
        .ok { sd := some (o.rd.toNat, (bits32 r).setWidth 64)
              flags := fIf (v0.isNan || (List.range n).any fun j => (el j).val.isNan) fNan }) s

/-- v.rmax: the maximum of the elements and the initial value. -/
def execVRmax (i : Issue) (o : FVR) (s : State) : Outcome State Fault Refusal :=
  reduceFold (.vRmax i o) i o fmax (fun a b => if a < b then b else a) s

/-- v.rmin: the minimum of the elements and the initial value. -/
def execVRmin (i : Issue) (o : FVR) (s : State) : Outcome State Fault Refusal :=
  reduceFold (.vRmin i o) i o fmin (fun a b => if a < b then a else b) s

/-- The running state of R244: count, mean, M2 and flags. -/
structure MvAcc where
  na : Nat
  ma : Val
  m2 : Val
  f : Flags

/-- rne(v, FP32) with its flags. -/
def rneF (ieee : Bool) (v : Val) : Val × Flags := roundFp .fp32 .rne ieee v

/-- Mean and M2 of one chunk (R244). -/
def mvChunk (ieee : Bool) (xs : List Val) : Val × Val × Flags :=
  let n := Val.ofInt xs.length
  let (sum, st) := (chunkValue xs).getD (Val.zero, false)
  let (m, f1) := rneF ieee (sum.div n)
  let sq := xs.map fun x => let d := x.sub m; d.mul d
  let (s2, st2) := (chunkValue sq).getD (Val.zero, false)
  let (m2, f2) := rneF ieee s2
  (m, m2, f1 ||| f2 ||| fIf (st || st2) fInexact)

/-- Merges the next chunk (R244). -/
def mvStep (ieee : Bool) (a : MvAcc) (xs : List Val) : MvAcc :=
  let (mq, m2q, f0) := mvChunk ieee xs
  let nb := xs.length
  let nt := a.na + nb
  let (d, f1) := sub32 ieee mq a.ma
  let (w, f2) := rneF ieee ((Val.ofInt nb).div (Val.ofInt nt))
  let (ma, f3) := fma32 ieee d w a.ma
  let (t, f4) := add32 ieee a.m2 m2q
  let (dd, f5) := mul32 ieee d d
  let (v, f6) := rneF ieee ((Val.ofInt (a.na * nb)).div (Val.ofInt nt))
  let (p, f7) := mul32 ieee dd v
  let (m2, f8) := add32 ieee t p
  { na := nt, ma, m2, f := a.f ||| f0 ||| f1 ||| f2 ||| f3 ||| f4 ||| f5 ||| f6 ||| f7 ||| f8 }

/-- Mean, variance and flags of a nonempty list (R244). -/
def meanVar (ieee u : Bool) (xs : List Val) : Val × Val × Flags :=
  if xs.any fun x => !x.isFin then (.nan, .nan, fNan ||| fIf (!(xs.any Val.isNan)) fInvalid)
  else
    let chunk (q : Nat) : List Val := (xs.drop (32 * q)).take 32
    let (m0, s0, f0) := mvChunk ieee (chunk 0)
    let a := (List.range (ceilDiv xs.length 32 - 1)).foldl (fun a q => mvStep ieee a (chunk (q + 1)))
      { na := (chunk 0).length, ma := m0, m2 := s0, f := f0 }
    let (n, f1) := rneF ieee (Val.ofInt (if u then xs.length - 1 else xs.length))
    let (v, f2) := div32 ieee a.m2 n
    (a.ma, v, a.f ||| f1 ||| f2)

/-- v.mv: mean in bits 31:0 and variance in bits 63:32 of rd (R244). -/
def execVMv (i : Issue) (o : FVR) (s : State) : Outcome State Fault Refusal :=
  vector (.vMv i o) i o.cs o.cnt [o.va.toNat] [o.rd.toNat]
    (fun k s n =>
      let c := s.core k.site
      let xs := (List.range n).map fun j => (regElem o.ty.toNat (c.velem o.va.toNat j)).val
      let (m, v, f) := meanVar (o.ieee = 1) (o.u = 1) xs
      .ok { sd := some (o.rd.toNat, bits32 v ++ bits32 m), flags := f }) s

/-- v.cnt: the number of true mask elements. -/
def execVCnt (i : Issue) (o : FVR) (s : State) : Outcome State Fault Refusal :=
  vector (.vCnt i o) i o.cs o.cnt [o.va.toNat] [o.rd.toNat]
    (fun k s n =>
      let c := s.core k.site
      .ok { sd := some (o.rd.toNat, BitVec.ofNat 64 ((List.range n).countP fun j => c.velem o.va.toNat j ≠ 0)) }) s

/-- v.ext: element k of va, zero-extended, k from bits 11:0 of ri (R304). -/
def execVExt (i : Issue) (o : FVR) (s : State) : Outcome State Fault Refusal :=
  vector (.vExt i o) i o.cs o.cnt [o.va.toNat] [o.rd.toNat, o.ri.toNat]
    (fun k s _ =>
      let x := (s.core k.site).velem o.va.toNat ((k.t.reg o.ri.toNat).toNat % 4096)
      .ok { sd := some (o.rd.toNat, (narrow o.ty.toNat x).setWidth 64) }) s

/-! ### Random masks (R186, R187, R307, R310) -/

/-- The generator word of element j: layer and slot from rk, base from rb, step from s2. -/
def FRN.word (o : FRN) (k : Offer) (s : State) (j : Nat) : Word32 :=
  let key := k.t.reg o.rk.toNat
  let seed : Word := match (s.spine k.allot).plan with | some pl => pl.img.jobSeed | none => 0
  cgWord seed (key.setWidth 16) (k.t.reg 2) ((key >>> 16).setWidth 8)
    ((k.t.reg o.rb.toNat).setWidth 32 + BitVec.ofNat 32 j)

/-- rn.drop: +0 where the generator drops the element, its product with the keep scale where it does not (R187). -/
def execRnDrop (i : Issue) (o : FRN) (s : State) : Outcome State Fault Refusal :=
  vector (.rnDrop i o) i o.cs o.cnt [o.vd.toNat, o.vs.toNat] [2, o.rk.toNat, o.rb.toNat]
    (fun k s n =>
      let c := s.core k.site
      let p := fld (k.t.reg o.rk.toNat) 55 32
      let scale := val32 ((k.t.reg o.rb.toNat >>> 32).setWidth 32)
      let r := vmap n fun j =>
        if (FRN.word o k s j).toNat / 256 < p then (0, 0)
        else
          let u := (regElem o.ty.toNat (c.velem o.vs.toNat j)).val
          fpResult o.ty.toNat .rne false [u, scale] (u.mul scale)
      .ok { vd := some o.vd.toNat, elems := r.1, flags := r.2 }) s

/-- rn.word: the generator words themselves. -/
def execRnWord (i : Issue) (o : FRN) (s : State) : Outcome State Fault Refusal :=
  vector (.rnWord i o) i o.cs o.cnt [o.vd.toNat] [2, o.rk.toNat, o.rb.toNat]
    (fun k s n => .ok { vd := some o.vd.toNat, elems := (vmap n fun j => (FRN.word o k s j, 0)).1 }) s

/-! ### Completion (R229, R245) -/

/-- VECTOR_COMPLETE: the oldest instruction of the arithmetic pipe delivers its result. -/
def execVectorComplete (site : Nat) (s : State) : Outcome State Fault Refusal :=
  s.onSite site fun s =>
    let c := s.core site
    match c.vArith with
    | [] => s
    | v :: t => s.setCore site ({ c with vArith := t }.deliver v)

end Sys2Proof.Machine
end

