-- ==== Sys2Proof/Machine/VectorMem.lean ====
section
/-! DEFINITION. The memory pipe of the vector engine: loads, stores, gathers, scatters and scatter-adds (R234, R240–R242,
R258). Descriptors, addresses and indices are checked at issue; the operation itself runs when it completes. -/

namespace Sys2Proof.Machine

open Host (Outcome)

/-- Formats that stochastic rounding may target (R81): BF16, FP16, E5M2, E4M3, INT8, INT4 and G16. -/
def srTarget (fm : Nat) : Bool := [1, 2, 3, 4, 6, 7, 9].contains fm

/-- Whether a store with field rm to memory format fm is reserved (R77, R81). -/
def rmReserved (rm fm : Nat) : Bool := (rm = 2 && !srTarget fm) || (rm ≠ 0 && fm = 8)

def VMemOp.reads (op : VMemOp) : Bool := op = .ld || op = .gth || op = .sadd
def VMemOp.writes (op : VMemOp) : Bool := op = .st || op = .sct || op = .sadd
def VMemOp.indexed (op : VMemOp) : Bool := op = .gth || op = .sct || op = .sadd

/-- The descriptor of a slot for an element instruction (R258): none is cause 0x09. -/
def elementDesc (c : Core) (op : VMemOp) (td : Nat) : Option DescImg :=
  match FMap.find td c.tds with
  | none => none
  | some d =>
    if d.kind = 2 || (op.reads && !bit d.access 0) || (op.writes && !bit d.access 1) then none else some d

/-- Cause of an abort before any access, if there is one (R240, R258, R28, R294). -/
def vmemCause (s : State) (p : Nat) (v : VMem) (trap : Bool) (off : Int) : Option Nat :=
  let fm := v.desc.format.toNat
  let e : Int := v.desc.count
  if v.op.writes && rmReserved v.rm fm then some 0x04
  else if v.op = .sadd && fm ≠ 0 && fm ≠ 5 then some 0x04
  else if v.n = 0 then none
  else if !v.op.indexed && (off < 0 || e < off + v.n) then some 0x09
  else if v.op = .st && fm = 9 && v.desc.kind = 0 && e < ((off.toNat + v.n - 1) / 32 * 32 + 32 : Nat) then some 0x09
  else if trap && (vmemElems v).any (fun x => x.2.isNone) then some 0x02
  else if (vmemRanges v).any (fun r => (v.op.reads && !s.reach p false r) || (v.op.writes && !s.reach p true r)) then
    some 0x01
  else none

/-- A memory-pipe instruction (format VM). Its descriptor is checked even with n = 0, when it has no other effect. -/
def vectorMem (x : Instr) (i : Issue) (o : FVM) (op : VMemOp) (s : State) : Outcome State Fault Refusal :=
  issue x i ([countReg o.cs o.cnt, if op.indexed then 0 else o.ro.toNat] ++ srRegs o.rm)
    (fun k s =>
      let c := s.core k.site
      let vr := o.vr.toNat :: (if op.indexed then [o.vx.toNat] else [])
      if vr.any fun v => c.pendingV.contains v then .stall
      else
        let n := countOf k o.cs o.cnt
        match elementDesc c op o.td.toNat with
        | none => .abort 0x09
        | some d =>
          let off := (k.t.reg o.ro.toNat).toInt
          let v : VMem :=
            { op, vr := o.vr.toNat, desc := d, off := off.toNat
              idx := if op.indexed then (List.range n).map fun j => (c.velem o.vx.toNat j).toInt else []
              n, ty := o.ty.toNat, rm := o.rm.toNat, ieee := o.ieee = 1
              data := if op.writes then (List.range n).map fun j => c.velem o.vr.toNat j else []
              key := srKeyOf s k }
          match vmemCause s k.allot v (o.bd = 1) off with
          | some cause => .abort cause
          | none => .next (if n = 0 then s else s.launch k i.sb op.writes (.vmem v))) s

/-- v.ld: elements offset to offset + n − 1 into vr. -/
def execVLd (i : Issue) (o : FVM) (s : State) : Outcome State Fault Refusal := vectorMem (.vLd i o) i o .ld s

/-- v.st: vr to elements offset to offset + n − 1. -/
def execVSt (i : Issue) (o : FVM) (s : State) : Outcome State Fault Refusal := vectorMem (.vSt i o) i o .st s

/-- v.gth: the elements that vx names into vr. -/
def execVGth (i : Issue) (o : FVM) (s : State) : Outcome State Fault Refusal := vectorMem (.vGth i o) i o .gth s

/-- v.sct: vr to the elements that vx names, in ascending i. -/
def execVSct (i : Issue) (o : FVM) (s : State) : Outcome State Fault Refusal := vectorMem (.vSct i o) i o .sct s

/-- v.sadd: vr added to the elements that vx names, in ascending i. -/
def execVSadd (i : Issue) (o : FVM) (s : State) : Outcome State Fault Refusal := vectorMem (.vSadd i o) i o .sadd s

end Sys2Proof.Machine
end

