-- ==== Sys2Proof/Machine/Stream.lean ====
section
/-! DEFINITION. Stream queues (R260–R265, R268, R269, R308). -/

namespace Sys2Proof.Machine

open Host (Outcome)

/-- Entries of a queue's ring (R260). -/
def Queue.depth (q : Queue) : Nat := fld q.cfg 39 28 + 1

/-- Offset in the slice of ring position i. -/
def Queue.posOf (q : Queue) (i : Nat) : Nat := fld q.cfg 63 44 * 64 + i * q.esize

/-- st.req: opens a request of count entries; a count of 0 opens none (R261, R308). -/
def execStReq (i : Issue) (o : FST) (s : State) : Outcome State Fault Refusal :=
  issue (.stReq i o) i [2, o.ra.toNat, o.rb.toNat, o.rc.toNat, o.rd.toNat]
    (fun k s =>
      let c := s.core k.site
      let q := c.queue o.q.toNat
      let count := (k.t.reg o.rb.toNat).toNat % 2 ^ 32
      if !q.on then .abort 0x04
      else if 64 ≤ q.reqs.length then .stall
      else if count = 0 then .next s
      else
        let r : StReq :=
          { ctx := k.ctx, sb := i.sb.toNat, task := k.task, pc := k.t.pc.toNat, phase := tePhase (c.task k.task)
            own := (c.run k.task).step, step := k.t.reg 2
            src := (k.t.reg o.ra.toNat).toNat, count, stride := (k.t.reg o.rc.toNat).toInt
            deadline := ((k.t.reg o.rd.toNat).setWidth 32).toInt, fetched := 0, present := 0 }
        let c1 := c.setThread k.ctx ((c.thread k.ctx).setSb i.sb.toNat true)
        .next (s.setCore k.site (c1.setQueue o.q.toNat { q with reqs := q.reqs ++ [r] }))) s

/-- st.pop: takes the head entry; its elements reach vd when the read completes (R228, R262). A queue that is off has no
entry to wait for. -/
def execStPop (i : Issue) (o : FQ) (s : State) : Outcome State Fault Refusal :=
  issue (.stPop i o) i []
    (fun k s =>
      let c := s.core k.site
      let q := c.queue o.q.toNat
      if c.pendingV.contains o.vd.toNat then .stall
      else if !q.on then .abort 0x04
      else match q.head 1 with
      | none => .stall
      | some ents =>
        let pos := (ents.map fun e => e.pos).getD 0 0
        let s1 := s.setCore k.site (c.setQueue o.q.toNat (q.take ents k.task none))
        .next (s1.launch k i.sb false
          (.pop o.vd.toNat (sliceBase k.site + pos) q.esize o.ty.toNat o.q.toNat))) s

/-- st.rel: discards kk + 1 present entries (R262). -/
def execStRel (i : Issue) (o : FQ) (s : State) : Outcome State Fault Refusal :=
  issue (.stRel i o) i []
    (fun k s =>
      let c := s.core k.site
      let q := c.queue o.q.toNat
      if !q.on then .abort 0x04
      else match q.head (o.kk.toNat + 1) with
      | none => .stall
      | some ents => .next (s.setCore k.site (c.setQueue o.q.toNat
          (q.release fun e => ents.any fun x => x.pos = e.pos)))) s

/-! ### The stream unit (R263, R264) -/

/-- The island count at which the origin mark of a step arrived (R64). -/
def Island.origin (x : Island) (step : Word) : Option Word :=
  (x.origins.find? fun o => o.1 = step).map fun o => o.2

/-- The request a queue fetches for, if it may fetch: on, with an unfetched entry and a free ring entry. -/
def Queue.fetchable (q : Queue) : Option StReq :=
  if q.on && q.ring.length < q.depth then q.reqs.find? fun r => r.fetched < r.count else none

/-- The rank of a request: those whose mark has arrived first, by absolute deadline as int64, then the others by D
(R264). -/
def rankOf (x : Island) (r : StReq) : Nat × Int :=
  match x.origin r.step with
  | some o => (0, (o + BitVec.ofInt 64 r.deadline).toInt)
  | none => (1, r.deadline)

def rankLt (a b : Nat × Int) : Bool := a.1 < b.1 || (a.1 = b.1 && a.2 < b.2)

/-- The queue that R264 serves: of those whose head request's source path accepts a fetch, the one of least rank, ties to
the lowest queue. -/
def chooseQueue (x : Island) (c : Core) (paths : BitVec 16) : Option Nat :=
  ((List.range 16).foldl (fun (best : Option (Nat × Nat × Int)) q =>
    match if paths.getLsbD q then (c.queue q).fetchable else none with
    | none => best
    | some r => match best with
      | none => some (q, rankOf x r)
      | some b => if rankLt (rankOf x r) b.2 then some (q, rankOf x r) else best) none).map fun b => b.1

/-- Updates the first request that satisfies f. -/
def updateFirst (f : StReq → Bool) (g : StReq → StReq) : List StReq → List StReq
  | [] => []
  | r :: t => if f r then g r :: t else r :: updateFirst f g t

/-- STREAM_ENTRY_FETCH: the stream unit starts the fetch of one entry. -/
def execStreamEntryFetch (turn : FetchTurn) (s : State) : Outcome State Fault Refusal :=
  s.onSite turn.site fun s =>
    let site := turn.site
    let c := s.core site
    match chooseQueue (s.island (islandOf site)) c turn.paths with
    | none => s
    | some k =>
      let q := c.queue k
      match q.fetchable with
      | none => s
      | some r =>
        let a : Int := r.src + r.fetched * r.stride
        let e : QEntry := { pos := q.posOf q.next, src := if a < 0 then 2 ^ 52 else a.toNat
                            st := .fetching, task := r.task, tile := none, flushed := false }
        s.setCore site (c.setQueue k { q with
          reqs := updateFirst (fun r => r.fetched < r.count) (fun r => { r with fetched := r.fetched + 1 }) q.reqs
          ring := q.ring ++ [e]
          next := (q.next + 1) % q.depth })

/-- Judges a request against its origin mark (R263, R267): a miss counts in its queue and its phase. -/
def Core.judge (c : Core) (u : Unjudged) (origin : Word) : Core :=
  let count : Int := (u.present.toNat : Int) - origin.toNat
  if count ≤ u.deadline then c
  else
    let q := c.queue u.q
    let c1 := c.setQueue u.q { q with misses := min (q.misses + 1) 65535 }
    c1.modPhase u.own u.phase fun a =>
      { a with smiss := a.smiss + 1
               late := if a.smiss = 0 then count - u.deadline else max a.late (count - u.deadline) }

/-- Marks the oldest entry being fetched present. -/
def markPresent : List QEntry → List QEntry
  | [] => []
  | e :: t => if e.st = .fetching then { e with st := .present, win := none } :: t else e :: markPresent t

/-- The request's last entry is present: it closes, its scoreboard entry clears, and its miss is judged. -/
def Core.closeRequest (c : Core) (x : Island) (k : Nat) (r : StReq) (now : Word) : Core :=
  let q := c.queue k
  let c1 := c.setQueue k { q with reqs := q.reqs.filter fun y => y.present < y.count }
  let c2 := if r.sb < 8 then c1.setThread r.ctx ((c1.thread r.ctx).setSb r.sb false) else c1
  let u : Unjudged := { q := k, phase := r.phase, own := r.own, step := r.step, present := now, deadline := r.deadline }
  match x.origin r.step with
  | some o => c2.judge u o
  | none => { c2 with unjudged := c2.unjudged ++ [u] }

/-- STREAM_ENTRY_PRESENT: the oldest fetch of a queue ends. A fault or poison aborts the requesting task with cause
0x07 (R269). -/
def execStreamEntryPresent (site queue : Nat) (check : ReadCheck) (s : State) : Outcome State Fault Refusal :=
  s.onUnit (decide (site < 576) && decide (queue < 16)) fun s =>
    let c := s.core site
    let q := c.queue queue
    match q.ring.find? (fun e => e.st = .fetching), q.reqs.find? (fun r => r.present < r.count), s.allotOfSite site with
    | some e, some r, some p =>
      s.withWindow p e.win fun s =>
      let (res, s1) := s.readCk p e.src q.esize check
      match res with
      | .data l =>
        let s2 := s1.poke p (sliceBase site + e.pos) l
        let c2 := s2.core site
        let q2 := c2.queue queue
        let r2 := { r with present := r.present + 1 }
        let c3 := c2.setQueue queue { q2 with
          ring := markPresent q2.ring
          reqs := updateFirst (fun r => r.present < r.count) (fun _ => r2) q2.reqs }
        let x := s2.island (islandOf site)
        s2.setCore site (if r2.present = r2.count then c3.closeRequest x queue r2 (s2.islCnt (islandOf site)) else c3)
      | _ => s1.abortTask site r.task 0x07 r.ctx r.pc
    | _, _, _ => s

end Sys2Proof.Machine
end

