-- ==== Sys2Proof/Machine/Dma.lean ====
section
/-! DEFINITION. The DMA engines (R259, R278–R290): channels, descriptors and their operations. -/

namespace Sys2Proof.Machine

open Host (Outcome)

/-! ### Starting and stopping channels (R278, R282) -/

def Island.chan (x : Island) (n : Nat) : Chan := FMap.getD x.chans n {}
def Island.setChan (x : Island) (n : Nat) (c : Chan) : Island := { x with chans := FMap.insert n c x.chans }

/-- The ready order with channel n, which becomes ready in cycle now: behind earlier channels, and among those of the same
cycle by number (R279). -/
def Island.orderReady (x : Island) (now : Word) (n : Nat) : List Nat → List Nat
  | [] => [n]
  | k :: t => if (x.chan k).readyAt = now && n < k then n :: k :: t else k :: Island.orderReady x now n t

/-- A channel becomes ready at a descriptor address, in cycle now. -/
def Island.startChan (x : Island) (now : Word) (n : Nat) (next : Word) (starter : Option Starter) (step : Word) :
    Island :=
  { x.setChan n { x.chan n with
      st := .ready, stopReq := false, next := next, starter := starter, step := step, readyAt := now } with
    readyOrder := x.orderReady now n x.readyOrder }

/-- A stop of a channel (R282). -/
def Island.stopChan (x : Island) (n : Nat) : Island :=
  let c := x.chan n
  match c.st with
  | .idle => x
  | .ready => { x.setChan n c.stopped with readyOrder := x.readyOrder.filter (· ≠ n) }
  | .running => x.setChan n { c with stopReq := true }

/-- A stop of a channel. The chain of a ready channel ends with it, so its starter's scoreboard entry clears (R279). -/
def State.stopChannel (s : State) (isl n : Nat) : State :=
  let c := (s.island isl).chan n
  let s1 := s.modIsland isl fun x => x.stopChan n
  match c.st, c.starter with
  | .ready, some g => if g.sb < 8 then s1.clearSb g.site g.ctx g.sb else s1
  | _, _ => s1

/-- dm.go: starts a channel of the island that the core owns, once it is idle (R278, R294). -/
def execDmGo (i : Issue) (o : FD) (s : State) : Outcome State Fault Refusal :=
  issue (.dmGo i o) i [2, o.ra.toNat]
    (fun k s =>
      let isl := islandOf k.site
      let n := o.ch.toNat
      let ch := (s.island isl).chan n
      if ch.st ≠ .idle then .stall
      else if ch.owner.toNat ≠ (s.core k.site).rel then .abort 0x04
      else
        let s1 := s.modCore k.site fun c => c.setThread k.ctx ((c.thread k.ctx).setSb i.sb.toNat true)
        .next (s1.modIsland isl fun x => x.startChan s.ticks n (setFld (k.t.reg o.ra.toNat) 5 0 0)
          (some { site := k.site, ctx := k.ctx, sb := i.sb.toNat, task := k.task, pc := k.t.pc.toNat }) (k.t.reg 2))) s

/-- dm.stop: stops a channel that the core owns at its next descriptor boundary. -/
def execDmStop (i : Issue) (o : FD) (s : State) : Outcome State Fault Refusal :=
  issue (.dmStop i o) i []
    (fun k s =>
      let isl := islandOf k.site
      let n := o.ch.toNat
      if ((s.island isl).chan n).owner.toNat ≠ (s.core k.site).rel then .abort 0x04
      else .next (s.stopChannel isl n)) s

/-! ### Descriptors (R280, R281) -/

/-- A DMA descriptor (Table 11). -/
structure DmaDesc where
  src : Word
  dst : Word
  len : Nat
  op : Nat
  flags : Nat
  next : Word
  sig : Word
  own : Bool

def DmaDesc.ofBytes (l : List Byte) : DmaDesc :=
  let w (a n : Nat) : Nat := ofLe (slice l a n)
  { src := BitVec.ofNat 64 (w 0 8), dst := BitVec.ofNat 64 (w 8 8), len := w 16 4, op := w 20 1, flags := w 21 1
    next := BitVec.ofNat 64 (w 24 8), sig := BitVec.ofNat 64 (w 48 8), own := (w 56 8).testBit 63 }

/-- How a transfer ends: state, code, source units completed, bytes written in ascending address order, or for a WALK the
ranges written, flags, and PM32 groups that were stored dense. -/
structure DmaDone where
  s : State
  code : Nat := 0
  done : Nat := 0
  bytes : List Byte := []
  spans : List (Nat × Nat) := []
  cvt : Flags := 0
  dense : Nat := 0

/-- The status code of a failed read (Table 13). -/
def ReadResult.code : ReadResult → Nat
  | .fault => 1
  | _ => 2

/-- Reads n bytes for a transfer: the code of its failure, or the data. -/
def dmaRead (s : State) (p a n : Nat) (check : ReadCheck) : Except Nat (List Byte) × State :=
  let (r, s1) := s.readCk p a n check
  (match r with | .data l => .ok l | r => .error r.code, s1)

/-- COPY in ascending pieces that end at the source's poison units (R312). -/
def dmaCopy (p : Nat) (check : ReadCheck) : Nat → Nat → Nat → Nat → DmaDone → DmaDone
  | 0, _, _, _, r => r
  | f + 1, src, dst, n, r =>
    if n = 0 then r
    else
      let u := unitSize src
      let l := min n (u - src % u)
      match dmaRead r.s p src l (if r.done = 0 then check else .clean) with
      | (.error c, s1) => { r with s := s1, code := c }
      | (.ok bs, s1) =>
        match s1.store p dst bs with
        | none => { r with s := s1.lost p dst bs.length, code := 1 }
        | some s2 => dmaCopy p check f (src + l) (dst + l) (n - l)
            { r with s := s2, done := r.done + l, bytes := r.bytes ++ bs }

/-- FILL from an 8-byte pattern, in pieces that end at 4 KiB boundaries. -/
def dmaFill (p : Nat) (pat : Word) : Nat → Nat → Nat → DmaDone → DmaDone
  | 0, _, _, r => r
  | f + 1, dst, n, r =>
    if n = 0 then r
    else
      let l := min n (4096 - dst % 4096)
      let bs := (List.range l).map fun i => BitVec.ofNat 8 (pat.toNat >>> (8 * ((r.done + i) % 8)))
      match r.s.store p dst bs with
      | none => { r with s := r.s.lost p dst bs.length, code := 1 }
      | some s2 => dmaFill p pat f (dst + l) (n - l) { r with s := s2, done := r.done + l, bytes := r.bytes ++ bs }

/-- PM32 STORE and PM32 LOAD of n groups of w-bit elements (R288, R289). -/
def dmaPm32 (p w : Nat) (load : Bool) (check : ReadCheck) : Nat → Nat → Nat → DmaDone → DmaDone
  | 0, _, _, r => r
  | n + 1, src, dst, r =>
    let ck := if r.done = 0 then check else .clean
    if load then
      match dmaRead r.s p src 4 ck with
      | (.error c, s1) => { r with s := s1, code := c }
      | (.ok h, s1) =>
        let len := if ofLe h = 0xFFFFFFFF then 4 + 4 * w else pm32Len w (ofLe h)
        match dmaRead s1 p src len .clean with
        | (.error c, s2) => { r with s := s2, code := c }
        | (.ok l, s2) =>
          let bs := packBits w (pm32Load w l)
          match s2.store p dst bs with
          | none => { r with s := s2.lost p dst bs.length, code := 1 }
          | some s3 => dmaPm32 p w load check n (src + len) (dst + 4 * w)
              { r with s := s3, done := r.done + 1, bytes := r.bytes ++ bs }
    else
      match dmaRead r.s p src (4 * w) ck with
      | (.error c, s1) => { r with s := s1, code := c }
      | (.ok l, s1) =>
        let bs := pm32Store w (unpackBits w 32 l)
        match s1.store p dst bs with
        | none => { r with s := s1.lost p dst bs.length, code := 1 }
        | some s2 => dmaPm32 p w load check n (src + 4 * w) (dst + bs.length)
            { r with s := s2, done := r.done + 1, bytes := r.bytes ++ bs
                     dense := r.dense + b2n (decide (ofLe (slice bs 0 4) = 0xFFFFFFFF)) }

/-! ### WALK (R259) -/

/-- The element of a memory element of a descriptor (R76, R79). -/
def memElemAt (s : State) (p : Nat) (d : DescImg) (cb : List Nat) (e : Nat) : Elem :=
  let fm := d.format.toNat
  let a := (elemNib d e).toNat
  let x := s.peekNib p a (nibs fm)
  if fm = 8 then .fp (FFmt.decode .bf16 (cb.getD x 0))
  else if fm = 9 then .fp (g16Val x (signed 8 (ofLe (s.peek p (scaleAddr d (a / 2)) 1))))
  else memElem fm x

/-- The bits that a descriptor of a format without planes takes for a source element: equal formats copy bits. -/
def walkBits (s : State) (p : Nat) (src dst : DescImg) (cbS cbD : List Nat) (e : Nat) : Nat × Flags :=
  let fm := dst.format.toNat
  let x := memElemAt s p src cbS e
  if src.format = dst.format && fm ≠ 8 then (s.peekNib p (elemNib src e).toNat (nibs fm), 0)
  else if fm = 8 then
    let (v, f1) := via32 x
    let (c, f2) := toCb4 (cbD.map (FFmt.decode .bf16)) v
    (c, (match x with | .int _ => f1 | .fp _ => 0) ||| f2)
  else toMem fm .rne false x

/-- Whether the element before which e' stands is written with it: neither side makes narrow accesses (R259), and both lie in
one poison unit, next to each other. -/
def walkJoins (src dst : DescImg) (e e' : Nat) : Bool :=
  let inner (d : DescImg) : Bool := d.kind = 1 || d.strides.getD 0 0 = 1
  let (a, b) := ((elemNib dst e').toNat, (elemNib dst (e' + 1)).toNat)
  inner src && inner dst && src.format ≠ 9 && src.format ≠ 8 && dst.format ≠ 8 &&
  decide (elemNib src (e + 1) = elemNib src e + nibs src.format.toNat) && decide (b = a + nibs dst.format.toNat) &&
  decide (a / 2 / unitSize (a / 2) = b / 2 / unitSize (a / 2))

/-- Reads the bytes of a source element; the first read of a WALK meets `check`. -/
def walkRead (p : Nat) (d : DescImg) (e : Nat) (check : ReadCheck) (s : State) : Except ReadResult Unit × State :=
  match elemBytes d e with
  | [] => (.ok (), s)
  | r :: t =>
    match s.readCk p r.1 r.2 check with
    | (.data _, s1) => (match readEach p t s1 with
      | (.ok _, s2) => (.ok (), s2)
      | (.error x, s2) => (.error x, s2))
    | (x, s1) => (.error x, s1)

/-- The pad channels that a store of element e' of a G32 target completes: it is the last channel of its group, and a store
that began at element e0 covers the group's other channels. They hold +0 (R247). -/
def padNibs (d : DescImg) (e0 e' : Nat) : List Nat :=
  let c := d.e0.toNat
  if d.kind = 1 && d.format ≠ 9 && e' % c = c - 1 && c % 32 ≠ 0 && e0 + (c - 1) % 32 ≤ e' then
    (List.range (32 - c % 32)).map fun k => (elemNib d e').toNat + (k + 1) * nibs d.format.toNat
  else []

/-- Adds +0 in pad channels. -/
def padStage (s : State) (p : Nat) (d : DescImg) (cb : List Nat) (l : List Nat) (m : Staged) : Staged :=
  let n := nibs d.format.toNat
  let z := if d.format = 8 then (toCb4 (cb.map (FFmt.decode .bf16)) Val.zero).1 else 0
  l.foldl (fun m a => s.stageNib p m a n z) m

/-- The block of a G16 element, and the ranges a store of it writes: the whole block and its scale (R253). -/
def walkBlock (d : DescImg) (e : Nat) : Nat × List (Nat × Nat) :=
  let a := (elemNib d e).toNat / 2
  let b := d.allocBase.toNat + (a - d.allocBase.toNat) / 64 * 64
  (b, [(b, 64), (scaleAddr d a, 1)])

/-- Writes the bytes staged, and the elements held for a G16 block. -/
def walkFlush (p : Nat) (dst : DescImg) (m : Staged) (held : List (Nat × Nat × Word32)) (r0 : DmaDone) : DmaDone :=
  let r := { r0 with s := r0.s.pokeStaged p m }
  match held with
  | [] => r
  | x :: _ =>
    let (s1, f) := storeElems r.s p dst 0 (fun _ => .rne) false held
    { r with s := s1, cvt := r.cvt ||| f, spans := r.spans ++ (walkBlock dst x.2.1).2 }

/-- Elements moved in ascending order, n of them left from the i-th on: by narrow accesses one by one, else a poison unit
of the target at a time, or a G16 block as soon as its last element has been read (R259). m holds the bytes staged. -/
def walkEach (p : Nat) (src dst : DescImg) (cbS cbD : List Nat) (check : ReadCheck) (e e' : Nat) :
    Nat → Nat → Staged → List (Nat × Nat × Word32) → DmaDone → DmaDone
  | 0, _, m, held, r => walkFlush p dst m held r
  | n + 1, i, m, held, r =>
    match walkRead p src (e + i) (if i = 0 then check else .clean) r.s with
    | (.error x, s1) => { walkFlush p dst m held { r with s := s1 } with code := x.code }
    | (.ok _, s1) =>
      if (elemBytes dst (e' + i)).any fun x => !s1.reach p true x then
        { walkFlush p dst m held { r with s := s1 } with code := 1 }
      else if dst.format = 9 then
        let x := via32 (memElemAt s1 p src cbS (e + i))
        let held1 := held ++ [(i, e' + i, bits32 x.1)]
        let r1 := { r with s := s1, done := r.done + 1, cvt := if src.format = 5 then r.cvt ||| x.2 else r.cvt }
        if (walkBlock dst (e' + i)).1 = (walkBlock dst (e' + i + 1)).1 then
          walkEach p src dst cbS cbD check e e' n (i + 1) [] held1 r1
        else walkEach p src dst cbS cbD check e e' n (i + 1) [] [] (walkFlush p dst [] held1 r1)
      else
        let (y, f) := walkBits s1 p src dst cbS cbD (e + i)
        let pads := padNibs dst e' (e' + i)
        let m1 := padStage s1 p dst cbD pads (s1.stageElem p m dst (e' + i) y)
        let r1 := { r with s := s1, done := r.done + 1, cvt := r.cvt ||| f
                           spans := r.spans ++ elemBytes dst (e' + i) ++
                             pads.map fun a => (a / 2, ceilDiv (nibs dst.format.toNat) 2) }
        if walkJoins src dst (e + i) (e' + i) then walkEach p src dst cbS cbD check e e' n (i + 1) m1 [] r1
        else walkEach p src dst cbS cbD check e e' n (i + 1) [] [] (walkFlush p dst m1 [] r1)

/-- The bytes of ranges, each once, in ascending address. -/
def bytesOf (s : State) (p : Nat) (rs : List (Nat × Nat)) : List Byte :=
  let m : FMap Unit := rs.foldl (fun (m : FMap Unit) x =>
    (List.range x.2).foldl (fun (m : FMap Unit) j => FMap.insert (x.1 + j) () m) m) []
  m.flatMap fun x => s.peek p x.1 1

/-- Slots, bounds and access of a WALK (R258): none is code 0x04. -/
def walkSlot (c : Core) (w : Word) (n : Nat) (wr : Bool) : Option (DescImg × Nat) :=
  match FMap.find (fld w 5 0) c.tds with
  | none => none
  | some d =>
    let off := fld w 63 32
    if d.kind = 2 || !bit d.access (if wr then 1 else 0) || (0 < n && d.count < off + n) then none else some (d, off)

/-- The codebooks of a WALK's CB4 sides. -/
def walkBooks (p : Nat) (a b : DescImg) (s : State) : Except ReadResult (List Nat × List Nat) × State :=
  match readEach p ((codebook a) ++ codebook b) s with
  | (.ok _, s1) => (.ok (if a.format = 8 then s.codebook p a.aux.toNat else [],
      if b.format = 8 then s.codebook p b.aux.toNat else []), s1)
  | (.error x, s1) => (.error x, s1)

def dmaWalk (s : State) (p : Nat) (c : Core) (d : DmaDesc) (check : ReadCheck) : DmaDone :=
  match walkSlot c d.src d.len false, walkSlot c d.dst d.len true with
  | some (a, e), some (b, e') =>
    match walkBooks p a b s with
    | (.error x, s1) => { s := s1, code := x.code }
    | (.ok cb, s1) =>
      let r := walkEach p a b cb.1 cb.2 check e e' d.len 0 [] [] { s := s1 }
      { r with bytes := bytesOf r.s p r.spans }
  | _, _ => { s, code := 4 }

/-- Executes a descriptor's operation. site is the core that started the channel, if one did. -/
def dmaOp (s : State) (p : Nat) (site : Option Nat) (d : DmaDesc) (check : ReadCheck) : DmaDone :=
  let w := 4 * 2 ^ (d.flags / 4 % 4)
  let (src, dst) := (d.src.toNat, d.dst.toNat)
  if 4 < d.op || 63 < d.flags || d.flags % 4 = 3 || d.next.toNat % 64 ≠ 0 then { s, code := 3 }
  else match d.op with
  | 0 => dmaCopy p check (d.len / 8 + 2) src dst d.len { s }
  | 1 => match site with | some x => dmaWalk s p (s.core x) d check | none => { s, code := 4 }
  | 2 => dmaPm32 p w false check d.len src dst { s }
  | 3 => dmaPm32 p w true check d.len src dst { s }
  | _ => dmaFill p d.src (d.len / 4096 + 2) dst d.len { s }

/-! ### The engine (R279, R280, R290) -/

/-- The channel that an engine serves: the running one, or the first ready one, which then runs. -/
def Island.serve (x : Island) : Option (Nat × Island) :=
  match (List.range 32).find? fun n => (x.chan n).st = .running with
  | some n => some (n, x)
  | none => match x.readyOrder with
    | [] => none
    | n :: t => some (n, { x.setChan n { x.chan n with st := .running } with readyOrder := t })

/-- Ends a chain: the channel is idle with `ending`, and the starter's scoreboard entry clears. -/
def State.endChain (s : State) (isl n ending : Nat) (next : Word) : State :=
  let c := (s.island isl).chan n
  let s1 := s.modIsland isl fun x => x.setChan n
    { c with st := .idle, ending := BitVec.ofNat 3 ending, stopReq := false, starter := none, next := next }
  match c.starter with
  | some g => if g.sb < 8 then s1.clearSb g.site g.ctx g.sb else s1
  | none => s1

/-- The report of a channel's fault that aborts no task, since the operating system or a task that has aborted started it:
class 0x07 with the cause of R269 (R281). The class and its detail are a DESIGN CHOICE, log entry 36. -/
def State.reportChain (s : State) (isl : Nat) (g : Option Starter) : State :=
  match g with
  | some g => s.reportFrom 0x07 isl g.site (s.allotOfIsland isl) (7 + g.task * 16 + g.ctx * 512 + g.pc * 2 ^ 17)
  | none => s.reportFrom 0x07 isl 0xFFFF (s.allotOfIsland isl) 7

/-- A fault of a channel: its task aborts with cause 0x07 (R269) unless it has aborted already; the fault is reported. -/
def State.faultChain (s : State) (isl n : Nat) (next : Word) : State :=
  let c := (s.island isl).chan n
  let s1 := s.endChain isl n 3 next
  match c.starter with
  | some g => if g.sb = 8 then s1.reportChain isl (some g) else s1.abortTask g.site g.task 0x07 g.ctx g.pc
  | none => s1.reportChain isl none

/-- The channels whose FT5 interrupt is at the application-processor complex (R290). -/
def Island.ft5Lines (x : Island) : BitVec 32 := x.irq &&& x.irqEn

/-- The FT5 interrupt after a write-back (R290). -/
def Island.ft5 (x : Island) (n : Nat) (code : Nat) : Island :=
  let c := x.chan n
  if c.owner = 0xFFFF && bit c.next 0 then
    let x1 := if bit x.irq n then x.setChan n { c with irqMore := satAdd c.irqMore 1 } else x
    { x1 with irq := setFld x1.irq n n 1, irqErr := if code ≠ 0 then setFld x1.irqErr n n 1 else x1.irqErr }
  else x

/-- Whether a PM32 STORE is stash spill or mirror of a core of the island (R192, R195): it goes to LPDDR5X, into or from a
region of mode 1, or from a region of mode 2. -/
def isStash (s : State) (p isl src dst : Nat) : Bool :=
  match region dst, (s.spine p).plan with
  | .lpddr _, some pl => (match pl.img.layoutSec pl.layout with
    | none => false
    | some l => l.stash.any fun r =>
        let b := r.base.addr pl.sites
        let holds (a : Nat) : Bool := b ≤ a && a < b + r.size
        islandOf (pl.sites.getD r.core 0) = isl && ((r.mode = 1 && (holds src || holds dst)) || (r.mode = 2 && holds src)))
  | _, _ => false

def Island.countSpill (x : Island) (bytes dense : Nat) : Island :=
  { x with spillBytes := satAdd x.spillBytes bytes, spillDense := satAdd x.spillDense dense }

/-- The write-back of a descriptor: check, out_len and sig, then the status word (R280). -/
def writeBack (s : State) (p a : Nat) (d : DmaDesc) (r : DmaDone) : State :=
  let check : Nat := match d.flags % 4 with
    | 1 => (crc32c r.bytes).toNat
    | 2 => (sum64 r.bytes).toNat
    | _ => 0
  let s1 := s.poke p (a + 0x20) (leBytes 8 check ++ leBytes 4 r.bytes.length ++ leBytes 4 0 ++ leBytes 8 d.sig.toNat)
  s1.poke p (a + 0x38) (leBytes 8 (r.code * 2 ^ 48 + r.cvt.toNat * 2 ^ 40 + r.done))

/-- What follows a descriptor that ended with code 0: its signal, and the chain's next state (R280, R282). -/
def State.afterDesc (s : State) (p isl n : Nat) (d : DmaDesc) (ft5 : Word) : State :=
  let c := (s.island isl).chan n
  let core := fld d.sig 15 0
  let s1 := match (s.spine p).plan with
    | some pl =>
      if d.flags.testBit 4 && decide (core < pl.cores) then
        s.sendSignal { src := srcChan isl n, srcSite := 0, after := [], dst := pl.sites.getD core 0
                       slot := fld d.sig 21 16, n := 1, step := c.step }
      else s
    | none => s
  let next := d.next ||| ft5
  if c.stopReq then s1.endChain isl n 4 next
  else if d.next = 0 || d.flags.testBit 5 then s1.endChain isl n 2 next
  else s1.modIsland isl fun x => x.setChan n { x.chan n with next := next }

/-- DMA_DESCRIPTOR: an engine fetches one descriptor of the channel it serves, executes it and writes it back. -/
def execDmaDescriptor (island : Nat) (check : ReadCheck) (s : State) : Outcome State Fault Refusal :=
  s.onIsland island fun s =>
    match (s.island island).serve, s.allotOfIsland island with
    | some (n, x), some p =>
      let s0 := s.setIsland island x
      let c := x.chan n
      let ft5 := c.next &&& 1
      let a := (setFld c.next 5 0 0).toNat
      match dmaRead s0 p a 64 .clean with
      | (.error 1, s1) => s1.faultChain island n c.next
      | (.error code, s1) =>
        let s2 := writeBack s1 p a (DmaDesc.ofBytes []) { s := s1, code := code }
        (s2.modIsland island fun x => x.ft5 n code).faultChain island n c.next
      | (.ok l, s1) =>
        let d := DmaDesc.ofBytes l
        if !d.own then s1.endChain island n 1 c.next
        else
          let r := dmaOp s1 p (c.starter.map Starter.site) d check
          let s2 := if d.op = 2 && isStash s1 p island d.src.toNat d.dst.toNat then
              r.s.modIsland island fun x => x.countSpill r.bytes.length r.dense else r.s
          let s3 := (writeBack s2 p a d r).modIsland island fun x => x.ft5 n r.code
          if r.code ≠ 0 then s3.faultChain island n c.next else s3.afterDesc p island n d ft5
    | _, _ => s

end Sys2Proof.Machine
end

