-- ==== Sys2Proof/Machine/Reduction.lean ====
section
/-! DEFINITION. Gradient reduction and the Planisher (R196–R224): up.acc and up.fin, the spine's reports and marks, the
verdict, the update of a tile, the clear pass, trust ratios and the end of the update phase. -/

namespace Sys2Proof.Machine

open Host (Outcome)

/-! ### up.acc and up.fin (R197–R201, R309) -/

/-- Whether an up.acc may read its rows and write its blocks: rows and scales in the issuing core's slice, blocks in a
stack slice of the allotment. -/
def upAccOk (s : State) (k : Offer) (u : UpAcc) : Bool :=
  let own (a n : Nat) : Bool := s.reach k.allot false (a, n) && region a = .slice k.site && region (a + n - 1) = .slice k.site
  let blocks (a n : Nat) : Bool := s.reach k.allot true (a, n) && a + n ≤ sramEnd
  own u.src (64 * u.rows) && own u.srcScale u.rows &&
  (match u.sx with | some a => s.reach k.allot false (a, 1) | none => true) &&
  blocks (u.dst + 64 * u.blk) (64 * u.rows) && blocks (u.dstScale + u.blk) u.rows

/-- up.acc: hands rows of a G16 source to the destination slice. -/
def execUpAcc (i : Issue) (o : FU) (s : State) : Outcome State Fault Refusal :=
  issue (.upAcc i o) i [2, o.ra.toNat, o.rb.toNat, o.rx.toNat, o.rd.toNat, o.rp.toNat]
    (fun k s =>
      let reg (r : BitVec 4) : Nat := (k.t.reg r.toNat).toNat
      let u : UpAcc :=
        { src := reg o.ra, srcScale := reg o.rb, sx := if o.nx = 1 then none else some (reg o.rx), dst := reg o.rd
          dstScale := if o.pb = 1 then reg o.rp else reg o.rd + 2048
          blk := o.blk.toNat, rows := o.rows.toNat + 1, init := o.init = 1, last := o.last = 1, probe := o.pb = 1
          step := k.t.reg 2 }
      if !upAccOk s k u then .abort 0x01
      else .next ((s.launch k i.sb true (.upAcc u)).modCore k.site fun c => { c with accOut := c.accOut + 1 })) s

/-- up.fin: once every earlier up.acc of the core has reported, sends its end-of-reduction mark. -/
def execUpFin (i : Issue) (o : FZ) (s : State) : Outcome State Fault Refusal :=
  issue (.upFin i o) i [2]
    (fun k s =>
      let c := s.core k.site
      if c.accOut ≠ 0 then .stall
      else .next (s.modSpine k.allot fun sp => { sp with marksIn := sp.marksIn ++ [(c.rel, k.t.reg 2)] })) s

/-- UP_ACC_APPLY: the destination slice applies the oldest up.acc of a context on a scoreboard entry, unless its buffer is
pending (R199). -/
def execUpAccApply (site ctx sb : Nat) (check : ReadCheck) (s : State) : Outcome State Fault Refusal :=
  s.onSite site fun s =>
    let isAcc (o : MemOp) : Bool := match o.kind with | .upAcc _ => o.ctx = ctx && o.sb = sb | _ => false
    match (s.core site).inflight.find? isAcc, s.allotOfSite site with
    | some o, some p =>
      match o.kind with
      | .upAcc u =>
        if !u.probe && bufferPending s p u.dst then s
        else (s.modCore site fun c => { c with accOut := c.accOut - 1 }).completeOp site o check
      | _ => s
    | _, _ => s

/-! ### Reports and marks at the spine (R201, R202) -/

/-- Adds a report's q exactly (R202); A has 320 bits, bit 0 of weight 2^−149. -/
def ExactAcc.add (a : ExactAcc) (q : Word32) : ExactAcc :=
  match val32 q with
  | .nan => { a with nan := true }
  | .inf _ => { a with inf := true }
  | .fin _ m e => { a with sum := (a.sum + shiftNat m (e + 149)) % 2 ^ 320 }

/-- The value of an accumulator. -/
def ExactAcc.val (a : ExactAcc) : Val := if a.nan then .nan else if a.inf then .inf false else .fin false a.sum (-149)

/-- The site that plan-relative core c of allotment p is bound to. -/
def State.siteOf (s : State) (p c : Nat) : Nat :=
  match (s.spine p).plan with | some pl => pl.sites.getD c 0 | none => 0

/-- REDUCTION_REPORT: the index-th report on its way reaches the spine. A report of a later step waits for that step; one
of a step whose verdict has formed is a plan error (R201). -/
def execReductionReport (allot index : Nat) (s : State) : Outcome State Fault Refusal :=
  s.onAllot allot fun s =>
    let sp := s.spine allot
    match sp.reports[index]? with
    | none => s
    | some r =>
      if sp.step.toNat < r.step.toNat then s
      else
        let s1 := s.modSpine allot fun sp => { sp with reports := sp.reports.eraseIdx index }
        if r.step.toNat < sp.step.toNat then
          let site := s.siteOf allot r.core
          s1.planError allot 3 0 r.core (islandOf site) site
        else if r.probe then s1
        else s1.modSpine allot fun sp => { sp with
          acc := sp.acc.add r.q, nf := min (sp.nf + b2n r.nf) (2 ^ 32 - 1) }

/-- END_OF_REDUCTION_MARK: the index-th mark on its way reaches the spine. -/
def execEndOfReductionMark (allot index : Nat) (s : State) : Outcome State Fault Refusal :=
  s.onAllot allot fun s =>
    let sp := s.spine allot
    match sp.marksIn[index]? with
    | none => s
    | some (core, step) =>
      if sp.step.toNat < step.toNat then s
      else
        let s1 := s.modSpine allot fun sp => { sp with marksIn := sp.marksIn.eraseIdx index }
        let site := s.siteOf allot core
        if step.toNat < sp.step.toNat then s1.planError allot 3 0 core (islandOf site) site
        else if sp.endMarks.contains core then s1.planError allot 4 0 core (islandOf site) site
        else s1.modSpine allot fun sp => { sp with endMarks := sp.endMarks ++ [core] }

/-! ### The verdict (R203–R206) -/

/-- Outcome, cause and clip factor of R203. -/
structure Decision where
  norm : Val
  outcome : Nat
  cause : Nat
  factor : Val
  deriving DecidableEq, Repr

/-- The norm of R203 from the accumulator and the exponent L. -/
def normOf (a : ExactAcc) (l : Int) : Val :=
  match a.val with
  | .fin n m q => (roundFp .fp32 .rne true ((Val.fin n m (q - 2 * l)).sqrt)).1
  | v => v

/-- R203. -/
def decideVerdict (norm : Val) (vcfg : BitVec 2) (nf : Nat) (skipThr clipThr : Word32) : Decision :=
  if bit vcfg 0 && decide (0 < nf) then { norm, outcome := 2, cause := 1, factor := Val.one }
  else if bit vcfg 1 && !norm.isFin then { norm, outcome := 2, cause := 4, factor := Val.one }
  else if bit vcfg 1 && (val32 skipThr).lt norm then { norm, outcome := 2, cause := 2, factor := Val.one }
  else if bit vcfg 1 && (val32 clipThr).lt norm then
    { norm, outcome := 1, cause := 0, factor := (div32 false (val32 clipThr) norm).1 }
  else { norm, outcome := 0, cause := 0, factor := Val.one }

/-- The loss-scale machine of R206: the exponent for the next step and the clean count. -/
def lossScale (lstbl : Word) (outcome cause : Nat) (ls : Int) (clean : Nat) : Int × Nat :=
  let ev := if outcome = 0 then fld lstbl 7 0 else if outcome = 1 then fld lstbl 15 8
    else if cause = 1 then fld lstbl 23 16 else fld lstbl 31 24
  let act := ev / 64
  let delta := signed 4 (ev % 16)
  let lo := signed 8 (fld lstbl 55 48)
  let hi := signed 8 (fld lstbl 63 56)
  let c := (clean + 1) % 65536
  let r : Int × Nat := if act = 0 then (if fld lstbl 47 32 ≤ c then (ls + 1, 0) else (ls, c))
    else if act = 1 then (ls, 0) else (ls, clean)
  (satI (r.1 + delta) lo hi, r.2)

/-- Address of the verdict record of step n (R205). -/
def verdictAddr (vring : Word) (n : Nat) : Nat := fld vring 51 5 * 32 + 32 * (n % 2 ^ fld vring 63 58)

/-- The 32-byte verdict record (R205 Table 2). -/
def verdictRecord (step : Word) (d : Decision) (nf : Nat) (l l' : Int) (sweep : Word) : List Byte :=
  leBytes 8 step.toNat ++ leBytes 4 (bits32 d.norm).toNat ++ leBytes 4 (bits32 d.factor).toNat ++ leBytes 4 nf ++
  leBytes 1 d.outcome ++ leBytes 1 d.cause ++ leBytes 1 (wrap 8 l) ++ leBytes 1 (wrap 8 l') ++ leBytes 8 sweep.toNat

/-- Whether step n is a sweep step of a set (R219). -/
def SweepSet.due (w : SweepSet) (n : Nat) : Bool :=
  w.firstStep ≤ n && w.period ≠ 0 && (n - w.firstStep) % w.period = 0

/-- Reads the ready words of the sweep sets that are due and marks those sets applied whose word holds the step (R220). -/
def readySets (p : Nat) (step : Word) : List (Nat × SweepSet) → Word → State → Option Word × State
  | [], w, s => (some w, s)
  | x :: t, w, s =>
    if !SweepSet.due x.2 step.toNat then readySets p step t w s
    else match s.readCk p x.2.readyAddr 8 .clean with
    | (.data l, s1) => readySets p step t (if ofLe l = step.toNat then setFld w x.1 x.1 1 else w) s1
    | (.fault, s1) => readySets p step t w s1
    | (.poison, s1) => (none, s1)

/-- The sweep decisions of step n (R220), or those of the verdict ring when the step is replayed (R223). A ready word or a
ring record that cannot be read because of an address fault holds no step; poison, which is reported, gives none: the step
is abandoned (R312). What the spine does there is a DESIGN CHOICE (log entry 79). -/
def sweepsOf (s : State) (p : Nat) (pl : Plan) (step : Word) (outcome : Nat) : Option Word × State :=
  let sp := s.spine p
  let ready (s : State) : Option Word × State :=
    if outcome = 2 then (some 0, s) else readySets p step (toMap pl.sweeps) 0 s
  if !sp.ingot.replaying then ready s
  else match s.readCk p (verdictAddr sp.vring step.toNat) 32 .clean with
  | (.data old, s1) =>
    if ofLe (slice old 0 8) = step.toNat then (some (BitVec.ofNat 64 (ofLe (slice old 24 8))), s1) else ready s1
  | (.fault, s1) => ready s1
  | (.poison, s1) => (none, s1)

/-- The fallback bits of R146 from the counts of every core: words 0 to 3. The cores send thr with their counts, and a layer
is judged by that of its first report (DESIGN CHOICE, log entry 76). -/
def fallbackBits (counts : List PredCount) : FMap Word :=
  (counts.map fun (x : PredCount) => x.layer).eraseDups.foldl (fun m l =>
    let mine := counts.filter fun x => x.layer = l
    let audited := (mine.foldl (fun a (x : PredCount) => a + x.audited) 0) % 2 ^ 64
    let misses := (mine.foldl (fun a (x : PredCount) => a + x.misses) 0) % 2 ^ 64
    let thr := match mine with | x :: _ => x.thr | [] => 0
    if thr * audited < misses * 65536 then
      FMap.insert (l / 64) (setFld (FMap.getD m (l / 64) 0) (l % 64) (l % 64) 1) m
    else m) []

/-- Planishers of the allotment that are in service. -/
def State.planishers (s : State) (p : Nat) : List Nat :=
  match s.record p with | some r => r.pkgs.filter s.pkgOk | none => []

/-- Everything the verdict of the open step waits for (R35, R146, R203, R332): the marks and counts of every bound core,
no report of the step still on its way, the boundary of the step before, and its cut. -/
def verdictReady (s : State) (p : Nat) (pl : Plan) : Bool :=
  let sp := s.spine p
  let n := sp.step
  sp.openStep = n && !sp.ingot.cutting && sp.ingot.fenceReady = [] && !(sp.reports.any fun r => r.step = n) &&
  (List.range pl.sites.length).all fun c =>
    let k := s.core (pl.sites.getD c 0)
    sp.endMarks.contains c &&
    ((sp.prdReports.any fun r => r.core = c && r.step = n) ||
      !((List.range 32).any fun t => teTrigger (k.task t) ≠ 3 && tePhase (k.task t) = 1))

/-! ### The group table (R209, R210) -/

def groupAddr (base : Word) (g : Nat) : Nat := fld base 51 12 * 4096 + 64 * g
def runtimeAddr (base : Word) (g : Nat) : Nat := fld base 51 12 * 4096 + 0x40000 + 16 * g

/-- A group table entry from its 64 bytes. -/
def groupOf (l : List Byte) : GroupEnt :=
  let w (a : Nat) : Word32 := BitVec.ofNat 32 (ofLe (slice l a 4))
  { rule := ofLe (slice l 0 1), lrCurve := ofLe (slice l 1 1), biasCorr := (ofLe (slice l 2 1)).testBit 0
    lrBase := w 4, beta1 := w 8, beta2 := w 0xC, eps := w 0x10, lambda := w 0x14, trMax := w 0x18
    assayPeriod := ofLe (slice l 0x1C 2) }

/-- A physical read of a package: its outcome, and the state with what the line code found. -/
def State.readPhys (s : State) (n0 a n : Nat) (check : ReadCheck) : ReadResult × State :=
  if !s.inPackage n0 a n then (.fault, s)
  else
    let locs := [(Loc.dev a, n)]
    let s1 := s.meet locs check
    if s1.poisonedRange locs then (.poison, s.metPoison s1 locs check) else (.data (s1.fetch locs), s1)

/-- How a unit's work ends: with a new state, at poison, or at an address fault. -/
inductive TileEnd where
  | ok (s : State)
  | poison (s : State)
  | fault (s : State) (write : Bool)

/-- A write through the fabric, and what follows it. -/
def storeThen (s : State) (p a : Nat) (l : List Byte) (k : State → TileEnd) : TileEnd :=
  match s.store p a l with
  | some s' => k s'
  | none => .fault s true

/-- A read, and what follows it. -/
def readThen (r : ReadResult × State) (k : List Byte → State → TileEnd) : TileEnd :=
  match r with
  | (.data l, s) => k l s
  | (.poison, s) => .poison s
  | (.fault, s) => .fault s false

/-- A physical write of Planisher n, and what follows it. -/
def physThen (s : State) (p n a : Nat) (l : List Byte) (k : State → TileEnd) : TileEnd :=
  if s.inPackage n a l.length then k (s.storePhys p a l) else .fault s true

/-- Work on each element of a list in turn, until one ends otherwise. -/
def eachThen {α : Type} (f : State → α → TileEnd) : List α → State → TileEnd
  | [], s => .ok s
  | x :: t, s => match f s x with
    | .ok s' => eachThen f t s'
    | e => e

/-- A list without the repeats that follow each other. -/
def distinct : List Nat → List Nat
  | [] => []
  | [x] => [x]
  | x :: y :: t => if x = y then distinct (y :: t) else x :: distinct (y :: t)

/-- The groups whose table entry or runtime state in a package is not all zero, as memory lists no zero byte. The advance of
R210 leaves every other group's zeros as they are. -/
def groupsHeld (s : State) (base : Word) : List Nat :=
  let t := groupAddr base 0
  let held := distinct (s.mem.filterMap fun c => if t ≤ c.1 && c.1 < t + 0x40000 then some ((c.1 - t) / 64) else none)
  held ++ (distinct (s.mem.filterMap fun c =>
    if t + 0x40000 ≤ c.1 && c.1 < t + 0x50000 then some ((c.1 - t - 0x40000) / 16) else none)).filter
      fun g => !held.contains g

/-- Advances b1p and b2p of one group in Planisher n (R210). -/
def advanceGroup (p n : Nat) (s : State) (g : Nat) : TileEnd :=
  let base := (s.pkg n).grpBase
  let f (l : List Byte) (a : Nat) : Val := val32 (BitVec.ofNat 32 (ofLe (slice l a 4)))
  readThen (s.readPhys n (groupAddr base g) 64 .clean) fun e s1 =>
  readThen (s1.readPhys n (runtimeAddr base g) 8 .clean) fun rt s2 =>
    let b (k : Nat) (beta : Word32) : List Byte := leBytes 4 (bits32 (mul32 false (f rt k) (val32 beta)).1).toNat
    physThen s2 p n (runtimeAddr base g) (b 0 (groupOf e).beta1 ++ b 4 (groupOf e).beta2) .ok

/-- Advances every group of the 4,096 in a Planisher (R210). Table and runtime state must lie in its package. -/
def advanceGroups (p n : Nat) (s : State) : TileEnd :=
  let base := (s.pkg n).grpBase
  if s.inPackage n (groupAddr base 0) 0x50000 then eachThen (advanceGroup p n) (groupsHeld s base) s else .fault s true

/-! ### Delivery (R204, R199, R159) -/

/-- A delivery that a unit could not make in full: the fault is reported, and the step is to be abandoned (R169, R224). -/
def delivered (acc : State × Bool) (f : State → TileEnd) (report : State → Bool → State) : State × Bool :=
  match f acc.1 with
  | .ok s => (s, acc.2)
  | .poison s => (s, true)
  | .fault s w => (report s w, true)

/-- The flags byte and ls of the candidate list of a work record (R158, R159). -/
def markListValid (p : Nat) (pl : Plan) (m : VerdictMsg) (s : State) (work : Nat) : TileEnd :=
  match pl.works[work]? with
  | none => .ok s
  | some w =>
    if m.outcome = 2 then .ok s
    else storeThen s p (w.listAddr + 14) (leBytes 1 1 ++ leBytes 1 (wrap 8 m.ls)) .ok

/-- A Vetch unit's lists of the step take the verdict (R159). -/
def deliverVetch (p : Nat) (pl : Plan) (m : VerdictMsg) (acc : State × Bool) (i : Nat) : State × Bool :=
  let done := ((acc.1.island i).vetch.captured.filter fun (x : Nat × Word) => x.2 = m.step).map fun (x : Nat × Word) => x.1
  let r := delivered acc (eachThen (markListValid p pl m) done) fun s w => s.reportUnit p 2 w i i 0xFFFF
  (r.1.modIsland i fun x =>
    { x with vetch := { x.vetch with captured := x.vetch.captured.filter fun y => y.2 ≠ m.step } }, r.2)

/-- A Planisher receives the verdict: on commit or clip it advances its groups, and its buffers become pending. -/
def deliverPackage (p : Nat) (pl : Plan) (m : VerdictMsg) (acc : State × Bool) (n : Nat) : State × Bool :=
  let todo := (updatesOf pl n).map fun x => x.1
  let r := if m.outcome = 2 then acc
    else delivered acc (advanceGroups p n) fun s w => s.reportUnit p 1 w n (36 + n) (576 + n)
  let now := r.1.ticks.toNat
  let a : PhaseAcc := { step := m.step, phase := 5, start := now, stop := now, issued := true }
  (r.1.modPkg n fun x => { x with
    msg := some m, todo := todo, waiting := false, clearOnly := m.outcome = 2
    pass := if todo = [] then .none else if m.outcome = 2 then .clear else .update
    phases := x.phases ++ [a] }, r.2)

/-- The verdict reaches every core, Vetch unit and Planisher of the allotment; a unit that could not take it abandons the
step (R36). -/
def State.deliver (s : State) (r : AllotRec) (pl : Plan) (m : VerdictMsg) (fb : FMap Word) : State :=
  let s1 := forEach (r.islands.flatMap islandSites) s fun s x => s.modCore x fun c =>
    c.hears (lscaleWord m.lsNext m.step.toNat) m.step fb
  let v := r.islands.foldl (deliverVetch r.port pl m) (s1, false)
  let d := (v.1.planishers r.port).foldl (deliverPackage r.port pl m) v
  if d.2 then d.1.abandonStep r.port else d.1

/-- VERDICT: the spine forms the verdict of the open step, writes its record and delivers it. Poison met on the way
abandons the step. -/
def execVerdict (allot : Nat) (s : State) : Outcome State Fault Refusal :=
  s.onAllot allot fun s =>
    let sp := s.spine allot
    match s.record allot, sp.plan with
    | some r, some pl =>
      if sp.st ≠ .loaded || !verdictReady s allot pl then s
      else
        let n := sp.step
        let l := sp.ls.toInt
        let d := decideVerdict (normOf sp.acc l) sp.vcfg sp.nf sp.skipThr sp.clipThr
        match sweepsOf s allot pl n d.outcome with
        | (none, s0) => s0.abandonStep allot
        | (some sweep, s0) =>
        let (l', clean) := lossScale sp.lstbl d.outcome d.cause l sp.clean.toNat
        let m : VerdictMsg := { step := n, outcome := d.outcome, factor := bits32 d.factor, ls := l, lsNext := l', sweep }
        let fb := fallbackBits ((sp.prdReports.filter fun x => x.step = n).flatMap fun x => x.counts)
        let open_ (v : VerdictMsg) : Bool := r.islands.any fun i => (s.island i).vetch.captures.any fun c => c.step = v.step
        let s1 := s0.poke allot (verdictAddr sp.vring n.toNat) (verdictRecord n d sp.nf l l' sweep)
        let s2 := s1.modSpine allot fun sp => { sp with
          ls := BitVec.ofInt 8 l', clean := BitVec.ofNat 16 clean, outcome := BitVec.ofNat 2 d.outcome
          cause := BitVec.ofNat 3 d.cause, step := n + 1, acc := {}, nf := 0, endMarks := []
          prdReports := sp.prdReports.filter fun x => x.step ≠ n
          lastVerdict := some n, verdicts := m :: sp.verdicts.filter open_, updDone := [], updEnded := false
          maskDone := [], trSums := []
          trDone := d.outcome = 2 || !(pl.groups.any fun g => g.2.rule = 2) }
        s2.deliver r pl m fb
    | _, _ => s

/-! ### What a Planisher reaches through the fabric (R221) -/

/-- Whether [a, a + n) touches a host window. -/
def inWindows (a n : Nat) : Bool := 0x100000000000 < a + n && a < 0x180000000000

/-- A Planisher's read by device address: it reaches no host window, where it would end as an address fault (DESIGN CHOICE,
log entry 79). -/
def planRead (s : State) (p a n : Nat) (check : ReadCheck) : ReadResult × State :=
  if inWindows a n then (.fault, s) else s.readCk p a n check

/-- A Planisher's write by device address, likewise, and what follows it. -/
def planThen (s : State) (p a : Nat) (l : List Byte) (k : State → TileEnd) : TileEnd :=
  if inWindows a l.length then .fault s true else storeThen s p a l k

/-! ### The update rules (R212–R214) -/

/-! Where a result leaves the FP32 range the scalar operations below saturate (ieee = 0 of R94). R212 says so of the gradient,
the copies, the sums and the ratio alone; for the others it is a DESIGN CHOICE (log entry 79). -/

/-- One slot of a state record: master and moments. -/
structure Slot3 where
  w : Val
  m1 : Val
  m2 : Val
  deriving DecidableEq, Repr

/-- The scalars of one tile's update: the group, eta, the bias corrections and the trust ratio. -/
structure RulePar where
  g : GroupEnt
  eta : Val
  b1 : Val
  b2 : Val
  tr : Val
  deriving DecidableEq, Repr

def fma_ (a b c : Val) : Val := (fma32 false a b c).1
def mul_ (a b : Val) : Val := (mul32 false a b).1
def add_ (a b : Val) : Val := (add32 false a b).1
def div_ (a b : Val) : Val := (div32 false a b).1
def sqrt_ (a : Val) : Val := (sqrt32 false a).1
/-- rne(1 − x). -/
def oneMinus (x : Val) : Val := (sub32 false Val.one x).1

/-- The step's learning rate: one rounding of the exact product (R212). -/
def etaOf (pl : Plan) (g : GroupEnt) (n : Nat) : Val :=
  let v := match pl.groupCurves[g.lrCurve]? with | some c => curveAt c n | none => 0
  rne32 ((val32 g.lrBase).mul (.fin false v (-24)))

/-- The parameters of a group's rule from its table entry and 16 bytes of runtime state. -/
def ruleParOf (pl : Plan) (g : GroupEnt) (rt : List Byte) (n : Nat) : RulePar :=
  let f (a : Nat) : Val := val32 (BitVec.ofNat 32 (ofLe (slice rt a 4)))
  { g := g, eta := etaOf pl g n, tr := f 8
    b1 := if g.biasCorr then oneMinus (f 0) else Val.one
    b2 := if g.biasCorr then oneMinus (f 4) else Val.one }

/-- One slot under the group's rule (R212): the new record, and u. -/
def applyRule (r : RulePar) (x : Slot3) (g : Val) : Slot3 × Val :=
  let beta1 := val32 r.g.beta1
  let beta2 := val32 r.g.beta2
  let lam := val32 r.g.lambda
  if r.g.rule = 0 then
    let m1 := fma_ beta1 x.m1 (fma_ lam x.w g)
    ({ w := fma_ r.eta.neg m1 x.w, m1 := m1, m2 := x.m2 }, m1)
  else
    let m1 := fma_ beta1 x.m1 (mul_ (oneMinus beta1) g)
    if r.g.rule = 3 then
      let u := if m1.isNan then .nan else if m1.isZero then Val.zero else .fin m1.isNeg 1 0
      ({ w := fma_ r.eta.neg (add_ u (mul_ lam x.w)) x.w, m1 := m1, m2 := x.m2 }, u)
    else
      let m2 := fma_ beta2 x.m2 (mul_ (oneMinus beta2) (mul_ g g))
      let u := add_ (div_ (div_ m1 r.b1) (add_ (sqrt_ (div_ m2 r.b2)) (val32 r.g.eps))) (mul_ lam x.w)
      let eta := if r.g.rule = 2 then mul_ r.eta r.tr else r.eta
      ({ w := fma_ eta.neg u x.w, m1 := m1, m2 := m2 }, u)

/-- The gradient of slot i (R212): one rounding of h × 2^(s − L), then the clip factor. -/
def gradOf (buf : List Byte) (m : VerdictMsg) (i : Nat) : Val :=
  let h := ofLe (slice buf (2 * i) 2)
  let s := signed 8 (ofLe (slice buf (2048 + i / 32) 1))
  let g := rne32 (g16Val h (s - m.ls))
  if m.outcome = 1 then mul_ g (val32 m.factor) else g

/-- The working copy of a master, as bits of the record's fmt (R213). -/
def workingCopy (fmt : Nat) (w : Val) : Nat :=
  if fmt = 4 then (bits32 w).toNat
  else (toFp (if fmt = 0 then .bf16 else if fmt = 1 then .fp16 else if fmt = 2 then .e5m2 else .e4m3) .rne false w).1

/-- Whether a group's rule keeps a second moment. -/
def twoMoments (rule : Nat) : Bool := rule = 1 || rule = 2

/-- Slot i of a state region. -/
def slotAt (two : Bool) (l : List Byte) (i : Nat) : Slot3 :=
  let f (a : Nat) : Val := val32 (BitVec.ofNat 32 (ofLe (slice l (a + 4 * i) 4)))
  { w := f 0, m1 := f 4096, m2 := if two then f 8192 else Val.zero }

/-- The state region of updated slots. -/
def regionOf (two : Bool) (xs : List Slot3) : List Byte :=
  let f (g : Slot3 → Val) : List Byte := xs.flatMap fun x => leBytes 4 (bits32 (g x)).toNat
  f Slot3.w ++ f Slot3.m1 ++ (if two then f Slot3.m2 else [])

/-- Clears a buffer to +0 elements with scale 0 (R211). -/
def clearBuffer (s : State) (p buf : Nat) (k : State → TileEnd) : TileEnd := planThen s p buf (List.replicate 2080 0) k

/-- The working copy of a master given by its bits: fmt 4 carries them as they are (R213). -/
def copyOfBits (fmt : Nat) (w : Word32) : Nat := if fmt = 4 then w.toNat else workingCopy fmt (val32 w)

/-- The assay of a tile (R217): slots whose working copy differs from its master's rounding. -/
def assayMisses (fmt : Nat) (vals region : List Byte) : List Nat :=
  (List.range 1024).filter fun i =>
    unpackAt (fmtWidth fmt) vals i ≠ copyOfBits fmt (BitVec.ofNat 32 (ofLe (slice region (4 * i) 4)))

/-- Counts and reports the mismatches of a tile on package n: each is an uncorrectable error of the slice at the address of
its working copy (R217, R322). -/
def State.noteAssay (s : State) (p n : Nat) (missed : List Nat) : State :=
  let s1 := s.modPkg n fun x => { x with assayed := satAdd x.assayed 1, mism := satAdd x.mism missed.length }
  forEach missed s1 fun s a =>
    let site := a / sliceSize
    let s2 := (s.noteUnit a false 0x08).modIsland (islandOf site) fun x =>
      let w := FMap.getD x.ecc (posOf site) 0
      { x with ecc := FMap.insert (posOf site) (setFld w 57 48 (min (fld w 57 48 + 1) 1023)) x.ecc }
    s2.reportFrom 0x08 (36 + n) (576 + n) (some p) 0

/-- The two sums of an AdamW-TR tile join the spine's sums of its group (R214). -/
def addTrust (s : State) (p g : Nat) (olds : List Slot3) (us : List Val) : State :=
  let sq (l : List Val) : Word32 := bits32 (roundFp .fp32 .rne true (l.foldl (fun a x => a.add (x.mul x)) Val.zero)).1
  s.modSpine p fun sp =>
    let t := FMap.getD sp.trSums g ({}, {})
    { sp with trSums := FMap.insert g (t.1.add (sq (olds.map Slot3.w)), t.2.add (sq us)) sp.trSums }

/-- Applies the rule to every slot of a region, writes the region with `put`, and then the working copies at the end `fin`
names. -/
def applyTile (s : State) (p : Nat) (pl : Plan) (u : UpdateRec) (g : GroupEnt) (rt region : List Byte) (step : Nat)
    (grads : Nat → Val) (put : State → List Byte → (State → TileEnd) → TileEnd)
    (fin : State → (State → TileEnd) → TileEnd) : TileEnd :=
  let two := twoMoments g.rule
  let par := ruleParOf pl g rt step
  let olds := (List.range 1024).map (slotAt two region)
  let news := (List.range 1024).map fun i => applyRule par (slotAt two region i) (grads i)
  let copies := packBits (fmtWidth u.fmt) (news.map fun x => workingCopy u.fmt x.1.w)
  put s (regionOf two (news.map Prod.fst)) fun s1 =>
    let s2 := if g.rule = 2 then addTrust s1 p u.group olds (news.map Prod.snd) else s1
    fin s2 fun s => planThen s p (u.valueAddr.addr pl.sites) copies .ok

/-- One tier-2 tile (R211 Table 5). -/
def updateTier2 (s : State) (p n : Nat) (pl : Plan) (u : UpdateRec) (g : GroupEnt) (rt : List Byte) (m : VerdictMsg)
    (check : ReadCheck) : TileEnd :=
  let buf := u.bufAddr.addr pl.sites
  let value := u.valueAddr.addr pl.sites
  readThen (planRead s p buf 2080 check) fun b s1 =>
  readThen (s1.readPhys n u.stateAddr (if twoMoments g.rule then 12288 else 8192) .clean) fun region s2 =>
  let rest (s : State) : TileEnd :=
    applyTile s p pl u g rt region m.step.toNat (gradOf b m) (fun s l k => physThen s p n u.stateAddr l k)
      fun s k => clearBuffer s p buf k
  if g.assayPeriod ≠ 0 && m.step.toNat % g.assayPeriod = 0 then
    readThen (planRead s2 p value (128 * fmtWidth u.fmt) .clean) fun v s3 =>
      rest (s3.noteAssay p n ((assayMisses u.fmt v region).map fun i => value + i * fmtWidth u.fmt / 8))
  else rest s2

/-- One tier-3 tile: parked (R218), or swept when its set is applied (R220). Its park region is addressed as the allotment
addresses memory: only a tier-2 region is exempt from R29 (R208). -/
def updateTier3 (s : State) (p : Nat) (pl : Plan) (u : UpdateRec) (g : GroupEnt) (rt : List Byte) (m : VerdictMsg)
    (applied : Bool) (check : ReadCheck) : TileEnd :=
  let buf := u.bufAddr.addr pl.sites
  readThen (planRead s p buf 2080 check) fun b s1 =>
  readThen (planRead s1 p u.parkAddr 4096 .clean) fun park s2 =>
  let sum (i : Nat) : Val := add_ (val32 (BitVec.ofNat 32 (ofLe (slice park (4 * i) 4)))) (gradOf b m i)
  if applied then
    readThen (planRead s2 p (u.parkAddr + 4096) (if twoMoments g.rule then 12288 else 8192) .clean) fun region s3 =>
    match applyTile s3 p pl u g rt region m.step.toNat sum (fun s l k => planThen s p (u.parkAddr + 4096) l k)
        fun s k => k s with
    | .ok s4 => planThen s4 p u.parkAddr (List.replicate 4096 0) fun s5 => clearBuffer s5 p buf .ok
    | e => e
  else
    planThen s2 p u.parkAddr ((List.range 1024).flatMap fun i => leBytes 4 (bits32 (sum i)).toNat) fun s3 =>
      clearBuffer s3 p buf .ok

/-- The work of a commit or clip pass on update record k. -/
def updateTile (s : State) (p n : Nat) (pl : Plan) (k : Nat) (u : UpdateRec) (m : VerdictMsg) (check : ReadCheck) :
    TileEnd :=
  let base := (s.pkg n).grpBase
  readThen (s.readPhys n (groupAddr base u.group) 64 .clean) fun gb s1 =>
  let g := groupOf gb
  if 3 < g.rule then clearBuffer s1 p (u.bufAddr.addr pl.sites) .ok
  else readThen (s1.readPhys n (runtimeAddr base u.group) 16 .clean) fun rt s2 =>
    if u.tier3 then
      let applied := (toMap pl.sweeps).any fun x =>
        m.sweep.getLsbD x.1 && x.2.firstRec ≤ k && k < x.2.firstRec + x.2.count
      updateTier3 s2 p pl u g rt m applied check
    else updateTier2 s2 p n pl u g rt m check

/-- The tile is done: it leaves the pass, which ends with its last tile. -/
def Package.tileDone (x : Package) : Package :=
  { x with todo := x.todo.drop 1, pass := if x.todo.length ≤ 1 then .none else x.pass }

/-- PLANISHER_TILE_UPDATE: the next tile of a Planisher's update pass. Poison or an address fault abandons the step
(R224). -/
def execPlanisherTileUpdate (pkg : Nat) (check : ReadCheck) (s : State) : Outcome State Fault Refusal :=
  s.onPkg pkg fun s =>
    let x := s.pkg pkg
    if s.pkgStalled pkg then s else
    match s.allotOfPkg pkg, x.msg, x.todo with
    | some p, some m, k :: _ =>
      match (s.spine p).plan, x.pass with
      | some pl, .update =>
        match pl.updates[k]? with
        | none => s
        | some u =>
          match updateTile s p pkg pl k u m check with
          | .ok s1 => s1.modPkg pkg Package.tileDone
          | .poison s1 => s1.abandonStep p
          | .fault s1 w => s1.unitFault p 1 w pkg (36 + pkg) (576 + pkg)
      | _, _ => s
    | _, _, _ => s

/-- Clears the buffers of a clear pass in map order (R215). -/
def clearTiles (p pkg : Nat) (pl : Plan) : List Nat → State → State
  | [], s => s
  | k :: t, s =>
    match pl.updates[k]? with
    | none => clearTiles p pkg pl t s
    | some u =>
      match clearBuffer s p (u.bufAddr.addr pl.sites) .ok with
      | .ok s1 => clearTiles p pkg pl t (s1.modPkg pkg Package.tileDone)
      | .poison s1 => s1.abandonStep p
      | .fault s1 w => s1.unitFault p 1 w pkg (36 + pkg) (576 + pkg)

/-- CLEAR_PASS: a Planisher's pass on a skip verdict. -/
def execClearPass (pkg : Nat) (s : State) : Outcome State Fault Refusal :=
  s.onPkg pkg fun s =>
    let x := s.pkg pkg
    if s.pkgStalled pkg then s else
    match s.allotOfPkg pkg, x.pass with
    | some p, .clear =>
      match (s.spine p).plan with
      | some pl => clearTiles p pkg pl x.todo s
      | none => s
    | _, _ => s

/-! ### Trust ratios and completion (R214, R215, R33) -/

/-- A group's ratio (R214). -/
def trustOf (sums : ExactAcc × ExactAcc) (trMax : Word32) : Word32 :=
  let bad (a : ExactAcc) : Bool := a.nan || a.inf || a.sum = 0
  if bad sums.1 || bad sums.2 then 0x3F800000
  else
    let r := (roundFp .fp32 .rne true ((sums.1.val.div sums.2.val).sqrt)).1
    bits32 (fmin r (val32 trMax))

/-- Writes the ratios of the AdamW-TR groups to one Planisher's runtime state. -/
def writeRatios (p : Nat) (pl : Plan) (acc : State × Bool) (n : Nat) : State × Bool :=
  let put (s : State) (g : Nat × GroupEnt) : TileEnd :=
    if g.2.rule ≠ 2 then .ok s
    else physThen s p n (runtimeAddr (s.pkg n).grpBase g.1 + 8)
      (leBytes 4 (trustOf (FMap.getD (s.spine p).trSums g.1 ({}, {})) g.2.trMax).toNat) .ok
  delivered acc (eachThen put pl.groups) fun s w => s.reportUnit p 1 w n (36 + n) (576 + n)

/-- TRUST_RATIO: with every Planisher's tiles done, the ratios of the AdamW-TR groups are formed and written to every
Planisher's runtime state. An address fault abandons the step (R224). -/
def execTrustRatio (allot : Nat) (s : State) : Outcome State Fault Refusal :=
  s.onAllot allot fun s =>
    let sp := s.spine allot
    match sp.plan with
    | none => s
    | some pl =>
      let pk := s.planishers allot
      if sp.trDone || sp.st ≠ .loaded || !(pk.all fun n => (s.pkg n).msg.isSome && (s.pkg n).todo = []) then s
      else
        let r := pk.foldl (writeRatios allot pl) (s, false)
        if r.2 then r.1.abandonStep allot else r.1.modSpine allot fun sp => { sp with trDone := true }

/-- Whether step n is a mask step of the allotment (R153). -/
def maskStep (pl : Plan) (n : Nat) : Bool := pl.layers.any fun x => layerStep x.2 n

/-- The mask phase starts in the Vetch unit of island i (R160, R161). -/
def startMask (p : Nat) (pl : Plan) (m : VerdictMsg) (s : State) (i : Nat) : State :=
  let v := (s.island i).vetch
  let mine := if m.outcome = 2 then [] else v.works.filter fun k =>
    match pl.works[k]? with
    | some w => (match FMap.find w.layer pl.layers with | some l => layerStep l m.step.toNat | none => false)
    | none => false
  let s1 := s.modIsland i fun x => { x with vetch := { x.vetch with
    statStep := m.step, illegal := false, short := false, noList := false, skipped := m.outcome = 2
    pendingTiles := mine, step := m.step, phaseOn := mine ≠ [], stage := .idle, evolving := none, statSet := none } }
  if mine = [] then s1.modSpine p fun sp => { sp with maskDone := sp.maskDone ++ [i] } else s1

/-- The last reading of a temperature sensor in °C, as int8 (R64, R365). -/
def State.degrees (s : State) (id : Nat) : Int :=
  satI ((FMap.getD s.hm.sensors id {}).value.tdiv 1000) (intMin 8) (intMax 8)

/-- PLANISHER_UPDATE_COMPLETION: a Planisher reports its update completion; with the last one the update phase ends and
the mask phase of a mask step begins (R33, R160). -/
def execPlanisherUpdateCompletion (pkg : Nat) (s : State) : Outcome State Fault Refusal :=
  s.onPkg pkg fun s =>
    let x := s.pkg pkg
    match s.allotOfPkg pkg, x.msg with
    | some p, some m =>
      let sp := s.spine p
      match s.record p, sp.plan with
      | some r, some pl =>
        if x.todo ≠ [] || !sp.trDone then s
        else
          let s1 := s.modPkg pkg fun x => { x with
            msg := none, waiting := true
            phases := x.phases.map fun a => if a.step = m.step && a.phase = 5 then
              { a with stop := s.ticks.toNat, ended := true, mhz := x.rate.toNat / 8, temp := s.degrees (72 + pkg) } else a }
          let done := sp.updDone ++ [pkg]
          let all := (s.planishers p).all done.contains
          let s2 := s1.modSpine p fun sp => { sp with updDone := done, updEnded := all }
          if all && maskStep pl m.step.toNat then r.islands.foldl (startMask p pl m) s2 else s2
      | _, _ => s
    | _, _ => s

end Sys2Proof.Machine
end

