-- ==== Sys2Proof/Machine/Vetch.lean ====
section
/-! DEFINITION. Mask evolution (R148–R172): probe captures, pruning and regrowth of a tile, the change list at the
Planisher, and the write of the tile. -/

namespace Sys2Proof.Machine

open Host (Outcome)

/-! ### Positions of a tile (R131, R132, R156) -/

/-- The mask word of a position and its bit in it. -/
def posWord (pos : Nat) : Nat := 4 * (pos / 256) + pos % 32 / 8
def posBit (pos : Nat) : Nat := 8 * (pos / 32 % 8) + pos % 8

def isPresent (ws : List Word) (pos : Nat) : Bool := (ws.getD (posWord pos) 0).getLsbD (posBit pos)

/-- The masks with one position made present or absent. -/
def setPos (ws : List Word) (pos : Nat) (v : Bool) : List Word :=
  setAt ws (posWord pos) (setFld (ws.getD (posWord pos) 0) (posBit pos) (posBit pos) (b2n v))

/-- Positions of a tile at level n. -/
def positions (n : Nat) : List Nat := List.range (256 / n * 32)

/-- The cell 32s + c of a present position (R132). -/
def slotOfPos (n : Nat) (ws : List Word) (pos : Nat) : Nat :=
  let w := ws.getD (posWord pos) 0
  let i := (colRows w (pos % 8)).findIdx (· = pos / 32 % 8)
  32 * (pos / 256 * n + i) + pos % 32

/-- The magnitude of a value: a NaN stays a NaN, above every other. -/
def magOf : Val → Val
  | .nan => .nan
  | .inf _ => .inf false
  | .fin _ m q => .fin false m q

/-- Order of magnitudes with a NaN above +∞ (R163). -/
def magBelow (a b : Val) : Bool := if a.isNan then false else if b.isNan then true else a.lt b

/-- The floating-point format of an update record's fmt (R207). -/
def copyFmt (fmt : Nat) : FFmt :=
  if fmt = 0 then .bf16 else if fmt = 1 then .fp16 else if fmt = 2 then .e5m2 else if fmt = 3 then .e4m3 else .fp32

/-- The update record of a tile, with its index. -/
def updateOf (pl : Plan) (w : WorkRec) : Option (Nat × UpdateRec) :=
  (toMap pl.updates).find? fun u => u.2.valueAddr.addr pl.sites = w.valueAddr.addr pl.sites

/-! ### Probe capture (R156–R159) -/

/-- mk.cap: hands a capture to the Vetch unit that owns the tile. -/
def execMkCap (i : Issue) (o : FMK) (s : State) : Outcome State Fault Refusal :=
  issue (.mkCap i o) i [2, o.ra.toNat, o.rb.toNat, o.rc.toNat]
    (fun k s =>
      let idx := (k.t.reg o.ra.toNat).toNat
      match (s.spine k.allot).plan with
      | none => .abort 0x01
      | some pl => match pl.works[idx]? with
        | none => .abort 0x01
        | some w =>
          let isl := islandOf (w.valueAddr.addr pl.sites / sliceSize)
          let c : Capture := { site := k.site, ctx := k.ctx, sb := i.sb.toNat, opId := (s.core k.site).nextOp, work := idx
                               valueAddr := (k.t.reg o.rb.toNat).toNat, scaleAddr := (k.t.reg o.rc.toNat).toNat
                               step := k.t.reg 2 }
          .next ((s.launch k i.sb true .capture).modIsland isl fun x =>
            { x with vetch := { x.vetch with captures := x.vetch.captures ++ [c], statSet := none } })) s

/-- A ranked candidate (R157): position, magnitude, block scale and element. -/
structure Cand where
  pos : Nat
  mag : Val
  s : Int
  h : Nat
  deriving DecidableEq, Repr

/-- Inserts a candidate behind those of its magnitude, larger ones first. -/
def insertCand (x : Cand) : List Cand → List Cand
  | [] => [x]
  | y :: t => if y.mag.lt x.mag then x :: y :: t else y :: insertCand x t

/-- The best candidates of a tile, by exact magnitude and then position (R157). -/
def rankTile (n : Nat) (ws : List Word) (vals scales : List Byte) (len : Nat) : List Cand :=
  (positions n).foldl (fun l pos =>
    if isPresent ws pos then l
    else
      let h := ofLe (slice vals (2 * pos) 2)
      let s := signed 8 (ofLe (slice scales (pos / 32) 1))
      let v := magOf (g16Val h s)
      if v.isNan || v.isZero then l else (insertCand { pos, mag := v, s, h } l).take len) []

/-- The bytes of a candidate list (R158). -/
def listBytes (step : Word) (tile : Nat) (valid : Bool) (ls : Int) (l : List Cand) : List Byte :=
  leBytes 8 step.toNat ++ leBytes 4 tile ++ leBytes 2 l.length ++ leBytes 1 (b2n valid) ++ leBytes 1 (wrap 8 ls) ++
  l.flatMap fun c => leBytes 2 c.pos ++ leBytes 1 (wrap 8 c.s) ++ [0] ++ leBytes 2 c.h ++ [0, 0]

/-- A Vetch access that ended with an address fault (R169, R464). -/
def State.vetchFault (s : State) (p i : Nat) (write : Bool) : State := s.unitFault p 2 write i i 0xFFFF

/-- Mask words of a tile at an evolving level; other levels have none. -/
def evolves (n : Nat) : Bool := n = 1 || n = 2 || n = 4

/-- Makes the capture c of island i (R157–R159). -/
def captureTile (s : State) (p i : Nat) (pl : Plan) (c : Capture) (w : WorkRec) (l : LayerRec) (check : ReadCheck) : State :=
  let op? := (s.core c.site).inflight.find? fun o => o.id = c.opId
  let drop := s.modIsland i fun x => { x with vetch := { x.vetch with
    captures := x.vetch.captures.filter fun y => !(y.site = c.site && y.opId = c.opId) } }
  let clear (s : State) : State := match op? with | some o => s.retireOp c.site o | none => s
  let rows := if evolves l.level then 256 / l.level else 0
  let (rm, s1) := drop.readCk p (w.maskAddr.addr pl.sites) (4 * rows) .clean
  let (rv, s2) := s1.readCk p (c.valueAddr + 64 * (w.tile * rows)) (64 * rows) check
  let (rs, s3) := s2.readCk p (c.scaleAddr + w.tile * rows) rows .clean
  match rm, rv, rs with
  | .fault, _, _ => s1.vetchFault p i false
  | .poison, _, _ => s1.abandonStep p
  | _, .fault, _ => s2.vetchFault p i false
  | _, _, .fault => s3.vetchFault p i false
  | _, .poison, _ | _, _, .poison =>
    (match op? with | some o => (clear s3).lateFault c.site o 8 | none => s3.abandonStep p)
  | .data m, .data v, .data sc =>
    let cands := if rows = 0 then [] else rankTile l.level (maskWords l.level m) v sc l.listLen
    let msg := (s3.spine p).verdicts.find? fun x => x.step = c.step
    let valid := match msg with | some x => decide (x.outcome ≠ 2) | none => false
    let ls := match msg with | some x => if x.outcome ≠ 2 then x.ls else 0 | none => 0
    match s3.store p w.listAddr (listBytes c.step w.tile valid ls cands) with
    | none => s3.vetchFault p i true
    | some s4 =>
      let s5 := if msg.isSome then s4 else s4.modIsland i fun x => { x with vetch := { x.vetch with
        captured := x.vetch.captured ++ [(c.work, c.step)] } }
      clear s5

/-- CAPTURE_COMPLETE: the oldest capture of a Vetch unit whose tile is not pending writes its list (R157, R169). -/
def execCaptureComplete (island : Nat) (check : ReadCheck) (s : State) : Outcome State Fault Refusal :=
  s.onIsland island fun s =>
    let v := (s.island island).vetch
    match v.captures.find? fun c => !v.pendingTiles.contains c.work, s.allotOfIsland island with
    | some c, some p =>
      match (s.spine p).plan with
      | none => s
      | some pl =>
        match pl.works[c.work]? with
        | none => s
        | some w => match FMap.find w.layer pl.layers with
          | none => s
          | some l => captureTile s p island pl c w l check
    | _, _ => s

/-! ### Prune and regrow (R162–R166) -/

/-- A candidate list as read: step, tile, count, valid, ls and its entries' position, scale and element. -/
structure CandList where
  step : Nat
  tile : Nat
  count : Nat
  valid : Bool
  ls : Int
  deriving DecidableEq, Repr

def candHeader (l : List Byte) : CandList :=
  { step := ofLe (slice l 0 8), tile := ofLe (slice l 8 4), count := ofLe (slice l 12 2)
    valid := (ofLe (slice l 14 1)).testBit 0, ls := signed 8 (ofLe (slice l 15 1)) }

/-- R162 at step n. -/
def CandList.usable (c : CandList) (w : WorkRec) (l : LayerRec) (n : Nat) : Bool :=
  c.valid && c.tile = w.tile && c.count ≤ l.listLen && c.step ≤ n &&
  (if l.firstStep < n then decide (n < c.step + l.period) else decide (l.firstStep ≤ c.step + l.period))

/-- What evolve answers (R163). -/
structure Evolved where
  masks : List Word
  pruned : List Nat
  grown : List (Nat × Int × Nat)
  rejected : Nat
  stale : Nat
  quota : Nat
  deriving DecidableEq, Repr

/-- Inserts a position behind those of its magnitude, smaller ones first. -/
def insertWeak (x : Nat × Val) : List (Nat × Val) → List (Nat × Val)
  | [] => [x]
  | y :: t => if magBelow x.2 y.2 then x :: y :: t else y :: insertWeak x t

/-- The regrowth walk (R163). -/
def regrow (n : Nat) : List (Nat × Int × Nat) → Evolved → Evolved
  | [], e => e
  | (pos, s, h) :: t, e =>
    if e.quota = 0 then e
    else if 256 / n * 32 ≤ pos then regrow n t { e with rejected := e.rejected + 1 }
    else if isPresent e.masks pos then regrow n t { e with stale := e.stale + 1 }
    else
      let w := e.masks.getD (posWord pos) 0
      if rowCount w (pos / 32 % 8) < n && colCount w (pos % 8) < n then
        regrow n t { e with masks := setPos e.masks pos true, grown := e.grown ++ [(pos, s, h)], quota := e.quota - 1 }
      else regrow n t { e with rejected := e.rejected + 1 }

/-- evolve of R163. mag gives the magnitude at a present position. -/
def evolveTile (n : Nat) (ws : List Word) (f dens : Nat) (mag : Nat → Val) (entries : List (Nat × Int × Nat)) : Evolved :=
  let ps := (positions n).filter (isPresent ws)
  let tgt := (1024 * dens) >>> 24
  let d0 := (ps.length * f) >>> 24
  let d := if tgt < ps.length && d0 < ps.length - tgt then ps.length - tgt else d0
  let weak := ps.foldl (fun l pos => insertWeak (pos, mag pos) l) []
  let pruned := (weak.take d).map Prod.fst
  let ws1 := pruned.foldl (fun ws pos => setPos ws pos false) ws
  let left := ps.length - d
  regrow n entries { masks := ws1, pruned, grown := [], rejected := 0, stale := 0, quota := tgt - left }

/-- The curve value of a layer at a step. -/
def layerCurve (pl : Plan) (k n : Nat) : Nat := match pl.maskCurves[k]? with | some c => curveAt c n | none => 0

/-- The change list and freed slots of an evolved tile (R166). -/
def changesOf (n upd : Nat) (ws : List Word) (e : Evolved) (ls : Int) : ChangeList × List Nat :=
  let olds := (positions n).filter (isPresent ws)
  let news := (positions n).filter (isPresent e.masks)
  let kept := olds.filter fun q => isPresent e.masks q && !e.pruned.contains q
  let newSlots := news.map (slotOfPos n e.masks)
  ({ tile := upd
     moved := (kept.map fun q => (slotOfPos n ws q, slotOfPos n e.masks q)).filter fun x => x.1 ≠ x.2
     retired := e.pruned.map (slotOfPos n ws)
     grown := e.grown.map fun g => (slotOfPos n e.masks g.1, g.2.1, BitVec.ofNat 16 g.2.2)
     ls := ls },
   (olds.map (slotOfPos n ws)).filter fun k => !newSlots.contains k)

/-- Adds to a Vetch counter (R172). -/
def Vetch.count (v : Vetch) (k n : Nat) : Vetch :=
  { v with cnts := FMap.insert k (satAdd (FMap.getD v.cnts k 0) n) v.cnts }

/-- The first pending tile of island i is done; with the last one the mask phase ends in the unit (R160, R168). -/
def State.vetchNext (s : State) (p i : Nat) : State :=
  let left := (s.island i).vetch.pendingTiles.drop 1
  let s1 := s.modIsland i fun x => { x with vetch := { x.vetch with
    pendingTiles := left, evolving := none, stage := .idle, phaseOn := left ≠ [] } }
  if left = [] then s1.modSpine p fun sp => { sp with maskDone := sp.maskDone ++ [i] } else s1

def State.modVetch (s : State) (i : Nat) (f : Vetch → Vetch) : State :=
  s.modIsland i fun x => { x with vetch := f x.vetch }

/-- The evolution of work k of island i at the step of its mask phase. -/
def evolveWork (s : State) (p i : Nat) (pl : Plan) (k : Nat) (w : WorkRec) (l : LayerRec) (check : ReadCheck) : State :=
  let step := (s.island i).vetch.step.toNat
  match updateOf pl w with
  | none => s
  | some (upd, u) =>
    let wd := fmtWidth u.fmt
    let n := l.level
    let (rm, s1) := s.readCk p (w.maskAddr.addr pl.sites) (1024 / n) check
    let (rv, s1') := s1.readCk p (w.valueAddr.addr pl.sites) (128 * wd) .clean
    let (rb, s2) := readBlock p pl w l s1'
    match rm, rv, rb with
    | .fault, _, _ => s1.vetchFault p i false
    | .poison, _, _ => s1.abandonStep p
    | _, .fault, _ => s1'.vetchFault p i false
    | _, .poison, _ => s1'.abandonStep p
    | _, _, .error .fault => s2.vetchFault p i false
    | _, _, .error _ => s2.abandonStep p
    | .data mb, .data vb, .ok bits =>
      let ws := maskWords n mb
      if (List.range ws.length).any fun j => (wordCheck (ws.getD j 0) n (bits.getD (j / 16) true)).isSome then
        ((s2.modVetch i fun v => { v.count 6 1 with illegal := true }).reportFrom 0x09 i 0xFFFF (some p)
          (2 ^ 31 + w.tile % 2 ^ 31)).vetchNext p i
      else
        match s2.readCk p w.listAddr 16 .clean with
        | (.fault, s3) => s3.vetchFault p i false
        | (.poison, s3) => s3.abandonStep p
        | (.data hb, s3) =>
          let c := candHeader hb
          if !c.usable w l step then (s3.modVetch i fun v => { v.count 5 1 with noList := true }).vetchNext p i
          else match s3.readCk p (w.listAddr + 16) (8 * c.count) .clean with
          | (.fault, s4) => s4.vetchFault p i false
          | (.poison, s4) => s4.abandonStep p
          | (.data eb, s4) =>
            let entries := (List.range c.count).map fun j =>
              (ofLe (slice eb (8 * j) 2) % 8192, signed 8 (ofLe (slice eb (8 * j + 2) 1)), ofLe (slice eb (8 * j + 4) 2))
            let mag (pos : Nat) : Val := magOf ((copyFmt u.fmt).decode (unpackAt wd vb (slotOfPos n ws pos)))
            let e := evolveTile n ws (layerCurve pl l.dropCurve step) (layerCurve pl l.densCurve step) mag entries
            let s5 := s4.modVetch i fun v =>
              let v1 := ((((v.count 0 e.pruned.length).count 1 e.grown.length).count 2 e.rejected).count 3 e.quota).count 4 e.stale
              { v1 with short := v.short || decide (e.quota ≠ 0) }
            let changed := ((List.range ws.length).filter fun j => e.masks.getD j 0 ≠ ws.getD j 0).map fun j =>
              (j, e.masks.getD j 0)
            if changed = [] then s5.vetchNext p i
            else
              let (cl, freed) := changesOf n upd ws e c.ls
              (s5.modVetch i fun v => { v with
                evolving := some { work := k, masks := changed, freed := freed, changes := cl, copies := [] }
                stage := .sent }).modPkg u.planisher fun x => { x with changes := x.changes ++ [(i, cl)] }

/-- VETCH_TILE_EVOLVE: the next pending tile of a Vetch unit (R160–R166). -/
def execVetchTileEvolve (island : Nat) (check : ReadCheck) (s : State) : Outcome State Fault Refusal :=
  s.onIsland island fun s =>
    let v := (s.island island).vetch
    match s.allotOfIsland island, v.pendingTiles with
    | some p, k :: _ =>
      if !v.phaseOn || v.stage ≠ .idle then s
      else match (s.spine p).plan with
      | none => s
      | some pl => match pl.works[k]? with
        | none => s
        | some w => match FMap.find w.layer pl.layers with
          | none => s
          | some l =>
            if !evolves l.level then (s.modVetch island fun v => v.count 6 1).vetchNext p island
            else evolveWork s p island pl k w l check
    | _, _ => s

/-! ### The change list (R167) -/

/-- Reads the state records of slots: their bits by plane, 0 master, 1 first and 2 second moment. -/
def readSlots (pkg base : Nat) (two : Bool) (check : ReadCheck) (l : List Nat) (s : State) :
    Except ReadResult (FMap Slot3) × State :=
  l.foldl (fun acc k =>
    match acc with
    | (.error e, s) => (.error e, s)
    | (.ok m, s) =>
      let (r0, s1) := s.readPhys pkg (base + 4 * k) 4 (if m = [] then check else .clean)
      let (r1, s2) := s1.readPhys pkg (base + 4096 + 4 * k) 4 .clean
      let (r2, s3) := if two then s2.readPhys pkg (base + 8192 + 4 * k) 4 .clean else (.data [0, 0, 0, 0], s2)
      let f (b : List Byte) : Val := val32 (BitVec.ofNat 32 (ofLe b))
      match r0, r1, r2 with
      | .data a, .data b, .data c => (.ok (FMap.insert k { w := f a, m1 := f b, m2 := f c } m), s3)
      | .fault, _, _ | _, .fault, _ | _, _, .fault => (.error .fault, s3)
      | _, _, _ => (.error .poison, s3)) (.ok [], s)

/-- Writes the state record of a slot. -/
def storeSlot (p base : Nat) (two : Bool) (s : State) (k : Nat) (x : Slot3) : State :=
  let s1 := s.storePhys p (base + 4 * k) (leBytes 4 (bits32 x.w).toNat)
  let s2 := s1.storePhys p (base + 4096 + 4 * k) (leBytes 4 (bits32 x.m1).toNat)
  if two then s2.storePhys p (base + 8192 + 4 * k) (leBytes 4 (bits32 x.m2).toNat) else s2

/-- The record of a new position (R167 Table 3). -/
def initSlot (l : LayerRec) (s : Int) (h : BitVec 16) (ls : Int) : Slot3 :=
  let g := g16Val h.toNat (s - ls)
  let mode := fld l.init 1 0
  let mom := fld l.init 3 2 = 1
  { w := if mode = 1 then rne32 ((val32 l.alpha).neg.mul g) else Val.zero
    m1 := if mom then rne32 g else Val.zero
    m2 := if mom then rne32 (g.mul g) else Val.zero }

/-- Applies a change list in the order retire, move, initialise, and gives the working copies of the new slots. -/
def applyChanges (s : State) (p pkg : Nat) (pl : Plan) (cl : ChangeList) (check : ReadCheck) :
    Except ReadResult (FMap Word32) × State :=
  match pl.updates[cl.tile]? with
  | none => (.ok [], s)
  | some u =>
    match s.readPhys pkg (groupAddr (s.pkg pkg).grpBase u.group) 64 .clean, workOf pl u with
    | (.data gb, s1), some (_, l) =>
      let two := twoMoments (groupOf gb).rule
      match readSlots pkg u.stateAddr two check (cl.moved.map Prod.fst) s1 with
      | (.error e, s2) => (.error e, s2)
      | (.ok old, s2) =>
        let zero : Slot3 := { w := .zero, m1 := .zero, m2 := .zero }
        if !s2.inPackage pkg u.stateAddr (if two then 12288 else 8192) then (.error .fault, s2)
        else
          let s3 := cl.retired.foldl (fun s k => storeSlot p u.stateAddr two s k zero) s2
          let gone := (cl.moved.map Prod.fst).filter fun k =>
            !(cl.moved.any fun x => x.2 = k) && !(cl.grown.any fun g => g.1 = k)
          let s4 := gone.foldl (fun s k => storeSlot p u.stateAddr two s k zero) s3
          let s5 := cl.moved.foldl (fun s x => storeSlot p u.stateAddr two s x.2 (FMap.getD old x.1 zero)) s4
          cl.grown.foldl (fun (acc : Except ReadResult (FMap Word32) × State) g =>
            let x := initSlot l g.2.1 g.2.2 cl.ls
            let m := match acc.1 with | .ok m => m | .error _ => []
            (.ok (FMap.insert g.1 (BitVec.ofNat 32 (workingCopy u.fmt x.w)) m), storeSlot p u.stateAddr two acc.2 g.1 x))
            (.ok [], s5)
    | (.data _, s1), none => (.ok [], s1)
    | (e, s1), _ => (.error e, s1)

/-- CHANGE_LIST: a Planisher serves the oldest change list it holds and returns the working copies. -/
def execChangeList (pkg : Nat) (check : ReadCheck) (s : State) : Outcome State Fault Refusal :=
  s.onPkg pkg fun s =>
    match s.allotOfPkg pkg, (s.pkg pkg).changes with
    | some p, (i, cl) :: t =>
      match (s.spine p).plan with
      | none => s
      | some pl =>
        match applyChanges s p pkg pl cl check with
        | (.error .poison, s1) => s1.abandonStep p
        | (.error _, s1) => s1.unitFault p 1 false pkg (36 + pkg) (576 + pkg)
        | (.ok copies, s1) =>
          (s1.modPkg pkg fun x => { x with changes := t }).modVetch i fun v => { v with
            stage := .returned
            evolving := v.evolving.map fun e => { e with copies := copies } }
    | _, _ => s

/-! ### The write of a tile (R165, R168) -/

/-- Stores a list of (address, bytes) in order, or none at an address fault. -/
def storeAll (p : Nat) : List (Nat × List Byte) → State → Option State
  | [], s => some s
  | (a, l) :: t, s => match s.store p a l with
    | some s' => storeAll p t s'
    | none => none

/-- The writes of an evolved tile with value plane `old`: values, then changed mask words. -/
def tileWrites (old : List Byte) (pl : Plan) (w : WorkRec) (u : UpdateRec) (e : Evolve) : List (Nat × List Byte) :=
  let va := w.valueAddr.addr pl.sites
  let b := fmtWidth u.fmt / 8
  (e.changes.moved.map fun x => (va + b * x.2, slice old (b * x.1) b)) ++
  (e.copies.map fun x => (va + b * x.1, leBytes b x.2.toNat)) ++
  (e.freed.map fun k => (va + b * k, leBytes b 0)) ++
  (e.masks.map fun x => (w.maskAddr.addr pl.sites + 8 * x.1, leBytes 8 x.2.toNat))

/-- Sets a tile's block bits from its mask words (R165): none at an address fault. -/
def writeBlockBits (p : Nat) (pl : Plan) (w : WorkRec) (l : LayerRec) (s : State) : Option State :=
  let ws := maskWords l.level (s.peek p (w.maskAddr.addr pl.sites) (1024 / l.level))
  writeBlock p pl w l (fun i => (List.range 16).any fun j => ws.getD (16 * i + j) 0 ≠ 0) s

/-- VETCH_TILE_WRITE: Vetch writes the evolved tile and clears its pending mark; an access that faults or meets poison
abandons the step (R169). -/
def execVetchTileWrite (island : Nat) (s : State) : Outcome State Fault Refusal :=
  s.onIsland island fun s =>
    let v := (s.island island).vetch
    match s.allotOfIsland island, v.evolving with
    | some p, some e =>
      if v.stage ≠ .returned then s
      else match (s.spine p).plan with
      | none => s
      | some pl =>
        match pl.works[e.work]?, pl.updates[e.changes.tile]? with
        | some w, some u =>
          match FMap.find w.layer pl.layers with
          | none => s
          | some l =>
            (match s.readCk p (w.valueAddr.addr pl.sites) (128 * fmtWidth u.fmt) .clean with
            | (.fault, s1) => s1.vetchFault p island false
            | (.poison, s1) => s1.abandonStep p
            | (.data old, s1) => match storeAll p (tileWrites old pl w u e) s1 with
              | none => s1.vetchFault p island true
              | some s2 => match writeBlockBits p pl w l s2 with
                | none => s2.vetchFault p island true
                | some s3 => s3.vetchNext p island)
        | _, _ => s
    | _, _ => s

end Sys2Proof.Machine
end

