-- ==== Sys2Proof/Machine/Steps.lean ====
section
/-! DEFINITION. Step boundaries and cuts (R33, R329–R332), planned fences (R325), marks (R54, R64, R393), phase-time
records and miss reports (R64, R65, R216, R266, R267, R277), and exports (R334). -/

namespace Sys2Proof.Machine

open Host (Outcome)

/-! ### The step boundary (R33) and the cuts it begins (R329) -/

/-- Islands of an allotment with a planned fence waiting (R325). -/
def State.plannedSites (s : State) (r : AllotRec) : List Nat :=
  r.islands.flatMap fun i => (s.island i).planFence.map fun k => 16 * i + k

/-- Whether a cut is due at the boundary of step n (R329). -/
def cutDue (s : State) (r : AllotRec) (ck : CkptSec) (ig : Ingot) (n : Nat) : Bool :=
  (ck.period ≠ 0 && ck.firstCut ≤ n && (n - ck.firstCut) % ck.period = 0) || ig.forcedPending ||
  s.plannedSites r ≠ []

/-- The cut that the boundary of step n begins (R330, R332). -/
def newCut (s : State) (p : Nat) (pl : Plan) (n : Word) : Cut :=
  let sp := s.spine p
  let ig := sp.ingot
  let fb := (s.core (pl.sites.getD 0 0)).prdFb
  { step := n, epoch := ig.epoch + 1, layout := pl.layout, ls := sp.ls.toInt, clean := sp.clean.toNat
    fb := (List.range 4).map fun k => FMap.getD fb k 0
    window := sp.ingest.window
    ringPos := match ig.ring.find? fun x => n.toNat < x.step.toNat with | some x => x.off | none => ig.ringHead
    slot := if ig.none_ then 0 else 1 - ig.slot }

/-- Begins a due cut, or skips it while an export runs. -/
def State.beginCut (s : State) (p : Nat) (pl : Plan) (n : Word) : State :=
  let c := newCut s p pl n
  s.modSpine p fun sp =>
    let ig := sp.ingot
    { sp with ingot :=
      if ig.exporting then { ig with skipped := min (ig.skipped + 1) 255 }
      else { ig with
        forced := if ig.forcedPending then min (ig.forced + 1) 255 else ig.forced
        forcedPending := false, cutting := true, taking := some c
        undo := {}, undoPrev := ig.undo, lost := false, lostPrev := ig.lost } }

/-- The boundary of step n passes the fault's step of a replay: run clears and the replay ends (R338, R355). -/
def State.passFault (s : State) (p : Nat) (n : Word) : State :=
  let ig := (s.spine p).ingot
  match ig.faultStep with
  | none => s
  | some f =>
    if n.toNat < f.toNat then s
    else
      let s1 := s.modSpine p fun sp => { sp with ingot := { sp.ingot with run := 0, faultStep := none, replaying := false } }
      if ig.replaying then s1.postEvent p 5 (leBytes 8 ig.firstStep.toNat ++ leBytes 8 ig.cutStep.toNat) else s1

/-- STEP_BOUNDARY: with every update and mask completion of the step, the spine passes its boundary and sends the
boundary mark; a due cut begins. Without a CKPT section planned fences come due at once (R328). -/
def execStepBoundary (allot : Nat) (s : State) : Outcome State Fault Refusal :=
  s.onAllot allot fun s =>
    let sp := s.spine allot
    match s.record allot, sp.plan with
    | some r, some pl =>
      let n := sp.openStep
      let masked := !maskStep pl n.toNat || r.islands.all sp.maskDone.contains
      if sp.st ≠ .loaded || sp.lastVerdict ≠ some n || !sp.updEnded || !masked then s
      else
        let s1 := s.modSpine allot fun sp => { sp with
          boundaryOf := some n
          ingest := { sp.ingest with boundary := some n } }
        let s2 := (sendMark r (.boundary n) s1).passFault allot n
        match pl.ckpt with
        | none => s2.modSpine allot fun sp => { sp with ingot := { sp.ingot with
            fenceReady := s.plannedSites r, forcedPending := false } }
        | some ck => if cutDue s2 r ck (s2.spine allot).ingot n.toNat then s2.beginCut allot pl n else s2
    | _, _ => s

/-- Copies everything a cut holds: the base copies, once, and the slot of every package (R330, R332). -/
def copyCut (p : Nat) (r : AllotRec) (pl : Plan) (ck : CkptSec) (c : Cut) (s : State) : Except CopyEnd Unit × State :=
  thenOk (if (s.spine p).ingot.baseDone then (.ok (), s) else writeBase p pl ck s)
    (eachOk (writeSlot p pl ck c) r.pkgs)

/-- CUT_CONSISTENT: tile copies, headers and switch-over are written; the old slots and the ring records of steps up to
n are released (R332), and planned fences come due (R325). A read that meets poison or faults abandons the step, and with
it the cut (R312, R341, R464); a write that faults, as every one to a package that is fenced or another allotment's does,
stops the allotment (R341, R361). -/
def execCutConsistent (allot : Nat) (s : State) : Outcome State Fault Refusal :=
  s.onAllot allot fun s =>
    let sp := s.spine allot
    match s.record allot, sp.plan, sp.ingot.taking with
    | some r, some pl, some c =>
      match pl.ckpt with
      | none => s
      | some ck =>
        if sp.st ≠ .loaded then s
        else match copyCut allot r pl ck c s with
          | (.error .write, s1) => s1.ingotFault allot 2
          | (.error (.read .fault), s1) => (s1.reportFrom 0x12 58 0xFFFF (some allot) (3 + 2 * 32)).abandonStep allot
          | (.error _, s1) => s1.abandonStep allot
          | (.ok _, s2) => s2.modSpine allot fun sp => { sp with ingot := { sp.ingot with
              cut := some c, taking := none, cutting := false, none_ := false, cutStep := c.step, slot := c.slot
              epoch := c.epoch, baseDone := true, undoPrev := {}, lostPrev := false, ringWait := false
              ring := sp.ingot.ring.filter fun x => decide (c.step.toNat < x.step.toNat)
              fenceReady := s.plannedSites r } }
    | _, _, _ => s

/-- PAGE_UNDO_COPY: the copy that the first write to a tracked page waits for (R331). -/
def execPageUndoCopy (allot page : Nat) (s : State) : Outcome State Fault Refusal :=
  s.onAllot allot fun s =>
    match s.record allot, region (page * 4096) with
    | some r, .lpddr n => if r.packages.getLsbD n then s.logPage allot page else s
    | _, _ => s

/-- PLANNED_FENCE: a slice over its limit is fenced once the cut it waited for is consistent, and that cut is restored;
an allotment without cuts stops (R325, R328). Every planned fence that is due is made at once. -/
def execPlannedFence (site : Nat) (s : State) : Outcome State Fault Refusal :=
  s.onSite site fun s =>
    match s.allotOfSite site with
    | none => s
    | some p =>
      let sp := s.spine p
      if !sp.ingot.fenceReady.contains site then s
      else
        let s1 := sp.ingot.fenceReady.foldl (fun s x => s.fenceSlice x 0x01) ((s.quiesce p).windDownAll p)
        match s1.record p, sp.plan with
        | some r, some pl =>
          match pl.ckpt, sp.ingot.cut with
          | some ck, some c =>
            if sp.ingot.lost || sp.ingot.lostPrev then s1.stopAllot p 0x10 sp.ingot.epoch
            else s1.replayFresh p r pl ck c
          | _, _ => s1.stopAllot p 0x10 sp.ingot.epoch
        | _, _ => s1

/-! ### Marks (R54, R64, R393) -/

/-- Bound, unfenced cores of an island, ascending. -/
def State.boundCores (s : State) (i : Nat) : List Nat :=
  (islandSites i).filter fun x => (s.core x).bound && !(s.core x).fenced

/-- Inserts an overrun of a core, given as task, context and program counter, by its context. -/
def insertCtx (x : Nat × Nat × Nat) : List (Nat × Nat × Nat) → List (Nat × Nat × Nat)
  | [] => [x]
  | y :: t => if x.2.1 < y.2.1 then x :: y :: t else y :: insertCtx x t

/-- Fires every task of a trigger on a core of allotment p, and says whether one overran. The overruns of one mark abort in
the order of their contexts, so that the lowest is recorded and the others count in more (R54, R57). -/
def State.fireCore (s : State) (p x trigger : Nat) (step : Word) : State × Bool :=
  let c := s.core x
  let all := (List.range 32).filter fun k => teTrigger (c.task k) = trigger
  let s1 := (all.filter fun k => !c.fired k).foldl (fun s k => s.fire x k step) s
  let overran := (all.filter c.fired).foldl (fun l k => insertCtx (k, c.overrunAt k) l) []
  (overran.foldl (fun s y => (s.noteAbort p x y.1 0x0A y.2.1 y.2.2).1) s1, !overran.isEmpty)

/-- Fires every task of a trigger on the island's cores with a step (R54). If any overran, the step is abandoned (R58). -/
def State.fireAll (s : State) (i trigger : Nat) (step : Word) : State :=
  match s.allotOfIsland i with
  | none => s
  | some p =>
    let r := (s.boundCores i).foldl (fun (acc : State × Bool) x =>
      let r := acc.1.fireCore p x trigger step
      (r.1, acc.2 || r.2)) (s, false)
    if r.2 then r.1.abandonStep p else r.1

/-- Takes the first mark of an island that f accepts. -/
def takeMark (f : Mark → Option Word) : List Mark → Option (Word × List Mark)
  | [] => none
  | m :: t => match f m with
    | some n => some (n, t)
    | none => (takeMark f t).map fun x => (x.1, m :: x.2)

/-- The island's origin of a step arrives: requests that waited for it are judged (R263). -/
def State.setOrigin (s : State) (i : Nat) (step : Word) : State :=
  let now := s.islCnt i
  let s1 := s.modIsland i fun x => { x with origins := (step, now) :: x.origins }
  forEach (s.boundCores i) s1 fun s x => s.modCore x fun c =>
    let c1 := { c with unjudged := c.unjudged.filter fun u => u.step ≠ step }
    (c.unjudged.filter fun u => u.step = step).foldl (fun c u => c.judge u now) c1

/-- A mark arrives at an island. -/
def State.onMark (s : State) (island : Nat) (f : Mark → Option Word) (k : Word → State → State) :
    Outcome State Fault Refusal :=
  s.onIsland island fun s =>
    match takeMark f (s.island island).marks with
    | none => s
    | some (n, rest) => k n (s.modIsland island fun x => { x with marks := rest })

/-- REPLAY_START_MARK: trigger 2 fires with the first replayed step, whose origin the mark is. -/
def execReplayStartMark (island : Nat) (s : State) : Outcome State Fault Refusal :=
  s.onMark island (fun m => match m with | .replayStart n => some n | _ => none) fun n s =>
    let s1 := s.modIsland island fun x => { x with mark2 := s.islCnt island }
    (s1.setOrigin island n).fireAll island 2 n

/-- PLAN_START_MARK: trigger 2 fires with step 0, whose origin the mark is. -/
def execPlanStartMark (island : Nat) (s : State) : Outcome State Fault Refusal :=
  s.onMark island (fun m => match m with | .planStart => some 0 | _ => none) fun n s =>
    let s1 := s.modIsland island fun x => { x with mark2 := s.islCnt island }
    (s1.setOrigin island n).fireAll island 2 n

/-- STEP_MARK: the per-step counters clear (R146) and trigger 0 fires with the mark's step. -/
def execStepMark (island : Nat) (s : State) : Outcome State Fault Refusal :=
  s.onMark island (fun m => match m with | .step n => some n | _ => none) fun n s =>
    let s1 := s.modIsland island fun x => { x with mark0 := s.islCnt island }
    let s2 := forEach (islandSites island) s1 fun s x => s.modCore x fun c => { c with prdCnt := [], cdrn := 0 }
    s2.fireAll island 0 n

/-- BOUNDARY_MARK: the island records its count, the origin of the next step. -/
def execBoundaryMark (island : Nat) (s : State) : Outcome State Fault Refusal :=
  s.onMark island (fun m => match m with | .boundary n => some n | _ => none) fun n s =>
    (s.modIsland island fun x => { x with mark1 := s.islCnt island }).setOrigin island (n + 1)

/-! ### Phase-time records (R64–R66, R216, R277) and miss reports (R267) -/

/-- A count as int32, and whether it reached a limit. -/
def sat32 (v : Int) : Int × Bool :=
  if v < intMin 32 then (intMin 32, true) else if intMax 32 < v then (intMax 32, true) else (v, false)

/-- A phase-time record's fields. -/
structure PhaseRec where
  step : Word
  start : Int
  stop : Int
  bound : Int
  replays : Nat
  phase : Nat
  idleOnly : Bool
  stale : Bool
  sat : Bool
  miss : Bool
  mhz : Nat
  temp : Int
  pst : Nat
  site : Nat
  layout : Nat
  deriving DecidableEq, Repr

/-- The record of an accumulated phase from its origin and bound. -/
def phaseRec (a : PhaseAcc) (origin : Word) (bound : Int) (site layout : Nat) (core : Bool) : PhaseRec :=
  let (st, f1) := sat32 ((a.start : Int) - origin.toNat)
  let (en, f2) := sat32 ((a.stop : Int) - origin.toNat)
  { step := a.step, start := st, stop := en, bound, replays := min a.replays 65535, phase := a.phase
    idleOnly := core && !a.issued, stale := a.stale, sat := f1 || f2, miss := decide (bound < en), mhz := a.mhz
    temp := a.temp, pst := a.pst, site, layout }

/-- The 32 bytes of Table 9. -/
def PhaseRec.bytes (r : PhaseRec) : List Byte :=
  leBytes 8 r.step.toNat ++ leBytes 4 (wrap 32 r.start) ++ leBytes 4 (wrap 32 r.stop) ++ leBytes 4 (wrap 32 r.bound) ++
  leBytes 2 r.replays ++ leBytes 1 r.phase ++
  leBytes 1 (8 * b2n r.idleOnly + 4 * b2n r.stale + 2 * b2n r.sat + b2n r.miss) ++
  leBytes 2 r.mhz ++ leBytes 1 (wrap 8 r.temp) ++ leBytes 1 r.pst ++ leBytes 2 r.site ++ leBytes 1 r.layout ++ [0]

/-- The miss report of a record (R267 Table 3). -/
def PhaseRec.report (r : PhaseRec) (smiss : Nat) (late : Int) : List Byte :=
  leBytes 8 r.step.toNat ++ leBytes 2 r.site ++ leBytes 1 r.phase ++
  leBytes 1 (b2n r.miss + 2 * b2n r.stale + 4 * b2n r.sat) ++ leBytes 4 smiss ++ leBytes 4 (wrap 32 (sat32 late).1) ++
  leBytes 4 (wrap 32 r.stop) ++ leBytes 4 (wrap 32 r.bound) ++ leBytes 2 r.mhz ++ leBytes 1 (wrap 8 r.temp) ++
  leBytes 1 r.pst

/-- Sends the miss report of a record in real-time mode, to the log and the host (R267). -/
def State.missReport (s : State) (p : Nat) (pl : Plan) (r : PhaseRec) (smiss : Nat) (late : Int) : State :=
  if pl.stream.hdr.realTime && (r.miss || decide (0 < smiss)) then
    let b := r.report smiss late
    (s.logRecord 3 p (b.take 16) (b.drop 16)).postEvent p 1 b
  else s

/-- A core's phase part has ended for its step, with every stream request of the phase present or flushed (R64, R266). -/
def Core.phaseOver (c : Core) (a : PhaseAcc) : Bool :=
  !((List.range 32).any fun k =>
    let r := c.run k
    tePhase (c.task k) = a.phase &&
      ((r.live && r.step = a.step) || r.pending = some a.step || r.restart = some a.step)) &&
  !(c.queues.any fun q => q.2.reqs.any fun r => r.phase = a.phase && r.own = a.step)

def originIn (l : List (Word × Word)) (step : Word) : Option Word := (l.find? fun x => x.1 = step).map fun x => x.2

/-- A core writes its record of a phase into the ring of its slice (R64, R65). -/
def corePhase (s : State) (site phase : Nat) : State :=
  let c := s.core site
  match s.allotOfSite site with
  | none => s
  | some p =>
    match (s.spine p).plan with
    | none => s
    | some pl =>
      match c.phases.find? fun a => a.phase = phase && c.phaseOver a &&
          (originIn (s.island (islandOf site)).origins a.step).isSome with
      | none => s
      | some a =>
        let origin := (originIn (s.island (islandOf site)).origins a.step).getD 0
        let bound := match pl.img.boundSec pl.layout c.rel with | some b => b.bounds.getD phase 0 | none => 0
        let r := phaseRec a origin bound site pl.layout true
        let addr := fld c.phaseRing 51 5 * 32 + 32 * (c.head.toNat % 2 ^ fld c.phaseRing 63 58)
        let s1 := (s.poke p addr r.bytes).modCore site fun c => { c with
          phases := c.phases.filter fun x => !(x.phase = a.phase && x.step = a.step)
          head := c.head + 1
          misses := if r.miss then satAdd c.misses 1 else c.misses }
        s1.missReport p pl r a.smiss a.late

/-- A Planisher writes its record of phase 5 (R216). A ring outside its package is an address fault (R224). -/
def pkgPhase (s : State) (n : Nat) : State :=
  let x := s.pkg n
  match s.allotOfPkg n with
  | none => s
  | some p =>
    match (s.spine p).plan, x.phases.find? fun a => a.ended && (originIn x.origins a.step).isSome with
    | some pl, some a =>
      let r := phaseRec a ((originIn x.origins a.step).getD 0) (FMap.getD pl.plnBounds n 0) (576 + n) pl.layout false
      let addr := fld x.ring 51 5 * 32 + 32 * (x.ringHead % 2 ^ fld x.ring 63 58)
      let s1 := (if s.inPackage n addr 32 then s.storePhys p addr r.bytes else s).modPkg n fun x => { x with
        phases := x.phases.filter fun y => y.step ≠ a.step, ringHead := x.ringHead + 1 }
      let s2 := s1.missReport p pl r 0 0
      if s.inPackage n addr 32 then s2 else s2.unitFault p 1 true n (36 + n) (576 + n)
    | _, _ => s

/-- The stream-ingest island writes allotment p's record of phase 0 (R277). -/
def ingestPhase (s : State) (p : Nat) : State :=
  let sp := s.spine p
  match sp.plan, sp.ingest.phases.find? fun a => a.ended && (originIn sp.ingest.origins a.step).isSome with
  | some pl, some a =>
    let r := { phaseRec a ((originIn sp.ingest.origins a.step).getD 0) pl.ingestBound 588 pl.layout false with mhz := 1000 }
    let h := pl.stream.hdr
    let s1 := (s.poke p (h.phBase + 32 * (sp.ingest.phaseHead % 2 ^ h.phK)) r.bytes).modSpine p fun sp => { sp with
      ingest := { sp.ingest with
        phases := sp.ingest.phases.filter fun y => y.step ≠ a.step, phaseHead := sp.ingest.phaseHead + 1 } }
    s1.missReport p pl r 0 0
  | _, _ => s

/-- PHASE_TIME_RECORD_WRITE: unit is a site, 576 + package, or 588 + allotment for the stream-ingest island. -/
def execPhaseTimeRecordWrite (unit phase : Nat) (s : State) : Outcome State Fault Refusal :=
  s.onUnit (decide (unit < 596)) fun s =>
    if unit < 576 then corePhase s unit phase
    else if unit < 588 then (if phase = 5 then pkgPhase s (unit - 576) else s)
    else if phase = 0 then ingestPhase s (unit - 588) else s

/-! ### Exports (R334) -/

/-- Device memory as it stood at the last consistent cut: logged pages come from the undo slots. -/
def cutMemory (s : State) (p : Nat) (r : AllotRec) (pl : Plan) (ck : CkptSec) : State := rollback s p r pl ck

/-- Capacity of a work record's candidate list. -/
def listCap (pl : Plan) (w : WorkRec) : Nat := match FMap.find w.layer pl.layers with | some l => l.listLen | none => 0

/-- One export record. -/
structure ExpRec where
  kind : Nat
  index : Nat
  data : List Byte
  deriving DecidableEq, Repr

def ExpRec.bytes (x : ExpRec) : List Byte :=
  leBytes 1 x.kind ++ List.replicate 7 0 ++ leBytes 8 x.index ++ leBytes 8 x.data.length ++
  leBytes 4 (crc32c x.data).toNat ++ [0, 0, 0, 0] ++ x.data

/-- Length of the state region of an update record (R208). -/
def regionLen (pl : Plan) (u : UpdateRec) : Nat :=
  match FMap.find u.group pl.groups with | some g => if twoMoments g.rule then 12288 else 8192 | none => 8192

/-- The tile copies of a slot in memory m: update index and bytes. -/
def slotCopies (m : List Host.Cell) (pl : Plan) (ck : CkptSec) (slot n : Nat) : List ExpRec :=
  let base := slotBase pl ck n slot
  (List.range (updatesOf pl n).length).map fun k =>
    let ent := Memory.read m (base + 128 + 32 * k) 32
    let len := ofLe (slice ent 4 4) + ofLe (slice ent 8 4) + 1
    { kind := 4, index := ofLe (slice ent 0 4), data := Memory.read m (base + ofLe (slice ent 16 8)) len }

/-- The records of an export of cut c, in the order of R334. -/
def exportRecs (s : State) (p : Nat) (r : AllotRec) (pl : Plan) (ck : CkptSec) (c : Cut) : List ExpRec :=
  let s0 := cutMemory s p r pl ck
  let first := r.pkgs.head?.getD 0
  let stateBytes (u : UpdateRec) : List Byte :=
    if u.tier3 then s0.peek p u.stateAddr (regionLen pl u) ++ s0.peek p u.parkAddr 16384
    else Memory.read s0.mem u.stateAddr (regionLen pl u)
  [{ kind := 0, index := 0, data := Memory.read s0.mem (slotBase pl ck first c.slot) 128 }] ++
  ((toMap pl.updates).map fun u => { kind := 1, index := u.1, data := stateBytes u.2 }) ++
  ((toMap pl.works).map fun w => { kind := 2, index := w.1, data := s0.peek p w.2.listAddr (16 + 8 * listCap pl w.2) }) ++
  [{ kind := 3, index := 0, data := Memory.read s0.mem (runtimeAddr (s.pkg first).grpBase 0) 65536 }] ++
  (r.pkgs.flatMap fun n => slotCopies s0.mem pl ck c.slot n) ++
  [{ kind := 5, index := 0, data := (frozenAddrs pl ck).flatMap fun f => Memory.read s0.mem f.2.2 f.2.1 }]

/-- An area that an export reads: by device address as the allotment addresses it, or by physical address. -/
structure ExpArea where
  mapped : Bool
  addr : Nat
  len : Nat

/-- Every area an export of cut c reads, in the order of R334. s0 is the machine with its memory as it stood at the cut. -/
def exportAreas (s0 : State) (r : AllotRec) (pl : Plan) (ck : CkptSec) (c : Cut) : List ExpArea :=
  let first := r.pkgs.head?.getD 0
  let phys (a n : Nat) : ExpArea := { mapped := false, addr := a, len := n }
  let dev (a n : Nat) : ExpArea := { mapped := true, addr := a, len := n }
  [phys (slotBase pl ck first c.slot) 128] ++
  (pl.updates.flatMap fun u =>
    if u.tier3 then [dev u.stateAddr (regionLen pl u), dev u.parkAddr 16384] else [phys u.stateAddr (regionLen pl u)]) ++
  (pl.works.map fun w => dev w.listAddr (16 + 8 * listCap pl w)) ++
  [phys (runtimeAddr (s0.pkg first).grpBase 0) 65536] ++
  (r.pkgs.flatMap fun n =>
    let base := slotBase pl ck n c.slot
    (List.range (updatesOf pl n).length).flatMap fun k =>
      let ent := Memory.read s0.mem (base + 128 + 32 * k) 32
      [phys (base + 128 + 32 * k) 32,
        phys (base + ofLe (slice ent 16 8)) (ofLe (slice ent 4 4) + ofLe (slice ent 8 4) + 1)]) ++
  ((frozenAddrs pl ck).map fun f => phys f.2.2 f.2.1)

/-- What ends an export at an area: an address fault, one whose TLPs are discarded (R345), or poison with its physical
address (R341). -/
inductive ExpStop where
  | fault (lost : Bool)
  | poison (a : Nat)

/-- Where an area lies: none is an address fault. A physical area lies in a package of the allotment (R361, R362). -/
def ExpArea.locs (s : State) (p : Nat) (x : ExpArea) : Option (List (Loc × Nat)) :=
  if x.mapped then s.resolveRange p x.addr x.len false
  else if s.ownPhys p x.addr x.len then some [(Loc.dev x.addr, x.len)] else none

/-- Whether an export can read an area. -/
def areaStop (s0 : State) (p : Nat) (x : ExpArea) : Option ExpStop :=
  if x.mapped && s0.discards p x.addr x.len then some (.fault true)
  else match x.locs s0 p with
  | none => some (.fault false)
  | some l => l.findSome? fun y => match y.1 with
    | .dev a => if s0.poisoned a y.2 then some (.poison a) else none
    | .host _ => none

/-- The stored errors that the reads of an export meet (R321): in the pages it does not take from an undo slot. -/
def State.exportMeets (s : State) (p : Nat) (areas : List ExpArea) : State :=
  (areas.flatMap fun x => ((x.locs s p).getD []).flatMap fun y => match y.1 with
    | .dev a => piecesOf a y.2
    | .host _ => []).foldl (fun s y =>
    let ig := (s.spine p).ingot
    if (ig.undo.pages ++ ig.undoPrev.pages).any fun z => z.1 = y.1 / 4096 then s else s.meetInjected y.1 y.2) s

/-- Runs an export to its end: status 1, or 3 at a fault, or at poison, which is reported (R334, R341). -/
def runExport (s00 : State) (p : Nat) (r : AllotRec) (pl : Plan) (ck : CkptSec) (c : Cut) : State :=
  let s := s00.exportMeets p (exportAreas (cutMemory s00 p r pl ck) r pl ck c)
  let s0 := cutMemory s p r pl ck
  let bytes := (exportRecs s p r pl ck c).flatMap ExpRec.bytes
  let fin (s : State) (st : Nat) : State := s.modSpine p fun sp =>
    { sp with ingot := { sp.ingot with exporting := false, expStatus := st } }
  let dst := fld (s.spine p).ingot.expAddr 51 6 * 64
  match (exportAreas s0 r pl ck c).findSome? (areaStop s0 p) with
  | some (.poison a) => fin (s.reportUe a) 3
  | some (.fault lost) => fin ((if lost then s.aer p else s).reportFrom 0x12 58 0xFFFF (some p) (3 + 32 * 4)) 3
  | none => match s.hostWrite p dst bytes with
  | some s1 => fin s1 1
  | none => fin ((s.lost p dst bytes.length).reportFrom 0x12 58 0xFFFF (some p) (3 + 16 + 32 * 4)) 3

/-- Starts an export of the last consistent cut, unless one runs or there is none. -/
def State.startExport (s : State) (p : Nat) : State :=
  let ig := (s.spine p).ingot
  if ig.exporting || ig.none_ then s
  else s.modSpine p fun sp => { sp with ingot := { sp.ingot with exporting := true, expStatus := 0 } }

/-- The plan an export serves: the one loaded, or the last one that was. -/
def Spine.exportPlan (sp : Spine) : Option Plan := sp.plan.or sp.kept

/-- EXPORT_END: a running export ends; a command that waits for it completes with the status (R334, R354). -/
def execExportEnd (allot : Nat) (s : State) : Outcome State Fault Refusal :=
  s.onAllot allot fun s =>
    let sp := s.spine allot
    let s1 := if !sp.ingot.exporting then s
      else match s.record allot, sp.exportPlan, sp.ingot.cut with
      | some r, some pl, some c => (match pl.ckpt with | some ck => runExport s allot r pl ck c | none => s)
      | _, _, _ => s
    let ig := (s1.spine allot).ingot
    match ig.expCmd with
    | none => s1
    | some (cid, sq) =>
      if ig.exporting then s1
      else
        let (s2, res) := s1.pushCompletion allot sq { cid, sq, event := false, coalesced := false, status := 0, kind := 0
                                                      step := (s1.spine allot).step, payload := leBytes 1 ig.expStatus }
        let done (s : State) : State := s.modSpine allot fun sp => { sp with ingot := { sp.ingot with expCmd := none } }
        match res with
        | .full => s1
        | .written => done s2
        | .faulted =>
          if sq = 0 then done s2 else (done s2).queueEvent allot (sq + 32 + cid * 65536)

end Sys2Proof.Machine
end

