-- ==== Sys2Proof/Machine/Ingest.lean ====
section
/-! DEFINITION. The stream-ingest island (R270–R277): sample records, windows, manifests and rejections, the replay ring
(R335, R336) and its supply during a replay, and the ingest ring of the host (R356, R357, R465). -/

namespace Sys2Proof.Machine

open Host (Outcome)

/-! ### The replay ring (R335, R336) -/

/-- Reads or writes of the ring cut at its end: start address and length of each piece. -/
def ringPieces (ck : CkptSec) (off n : Nat) : List (Nat × Nat) :=
  let first := min n (ck.ringLen - off)
  if first = n then [(ck.ringBase + off, n)] else [(ck.ringBase + off, first), (ck.ringBase, n - first)]

/-- Bytes in use in the ring. -/
def Ingot.fill (ig : Ingot) : Nat := ig.ring.foldl (fun a x => a + x.len) 0

/-- Whether n more bytes fit. -/
def ringFits (ig : Ingot) (ck : CkptSec) (n : Nat) : Bool := ig.fill + n ≤ ck.ringLen

/-- The 64-byte header of a ring record (R335 Table 5). -/
def ringHeader (step : Word) (slot kind length : Nat) (window : Int) (sample : List Byte) : List Byte :=
  leBytes 8 step.toNat ++ leBytes 2 slot ++ leBytes 1 kind ++ [0] ++ leBytes 4 length ++ leBytes 8 (wrap 64 window) ++
  List.replicate 8 0 ++ slice sample 0 32

/-- Appends a record; a fault stops the allotment (R341), and a fill that passes the high water calls for a cut. -/
def State.ringAppend (s : State) (p : Nat) (pl : Plan) (step : Word) (slot kind : Nat) (window : Int)
    (sample payload : List Byte) : State :=
  match pl.ckpt with
  | none => s
  | some ck =>
    let ig := (s.spine p).ingot
    let bytes := ringHeader step slot kind payload.length window sample ++ slice payload 0 (roundUp payload.length 64)
    let n := bytes.length
    let ps := ringPieces ck ig.ringHead n
    match storeAll p (ps.map fun x => (x.1,
        (bytes.drop (if x.1 = ck.ringBase + ig.ringHead then 0 else ck.ringLen - ig.ringHead)).take x.2)) s with
    | none => s.ingotFault p 0
    | some s1 =>
      let lim := fld ig.cfg 7 4 * ck.ringLen
      s1.modSpine p fun sp => { sp with ingot := { sp.ingot with
        ring := sp.ingot.ring ++ [{ off := ig.ringHead, len := n, step, kind }]
        ringHead := (ig.ringHead + n) % ck.ringLen
        forcedPending := sp.ingot.forcedPending || (decide (ig.fill * 16 ≤ lim) && decide (lim < (ig.fill + n) * 16)) } }

/-! ### Steps of ingest (R273–R275) -/

/-- A result of int64 arithmetic (R273). -/
def int64 (x : Int) : Int := (BitVec.ofInt 64 x).toInt

/-- The window of a stamp (R273). -/
def windowOf (h : StreamHdr) (stamp : Int) : Int := (int64 (stamp - h.t0)).fdiv h.width

/-- A held sample's stamp closes the open window w (R273). -/
def lagPassed (h : StreamHdr) (w stamp : Int) : Bool := 0 < h.lag && int64 (h.t0 + (w + 1) * h.width + h.lag) ≤ stamp

/-- Ingest of the open step waits for the boundary of step n − 2 (R274). -/
def bankWait (g : Ingest) : Bool :=
  2 ≤ g.step.toNat && match g.boundary with | some b => decide (b.toNat + 2 < g.step.toNat) | none => true

/-- The manifest of a step (R275 Table 8). -/
def manifestBytes (g : Ingest) (h : StreamHdr) (flags : Nat) : List Byte :=
  leBytes 8 g.step.toNat ++ leBytes 8 (if h.window then wrap 64 g.window else 0) ++ leBytes 2 g.taken ++
  leBytes 2 (min g.rejected 65535) ++ leBytes 4 flags ++ List.replicate 8 0 ++
  (List.range 16).flatMap fun c => leBytes 2 (FMap.getD g.perClass c 0)

/-- Sends a signal of the ingest island to a plan-relative core (R274, R275). -/
def ingestSignal (s : State) (p : Nat) (pl : Plan) (core slot : Nat) (step : Word) : State :=
  s.sendSignal { src := srcIngest p, srcSite := 0, after := [], dst := pl.sites.getD core 0, slot, n := 1, step }

/-- The first sample of a step begins its ingest phase and sends the step mark (R274). -/
def beginStep (s : State) (p : Nat) (r : AllotRec) : State :=
  let g := (s.spine p).ingest
  if g.phaseOpen then s
  else
    let acc : PhaseAcc := { step := g.step, phase := 0, start := s.ticks.toNat, stop := s.ticks.toNat, issued := true }
    sendMark r (.step g.step) (s.modSpine p fun sp => { sp with ingest := { sp.ingest with
      phaseOpen := true, phases := sp.ingest.phases ++ [acc] } })

/-- Takes a sample of a class into the next slot of the open step. -/
def takeSample (s : State) (p : Nat) (r : AllotRec) (pl : Plan) (cls : Nat) (payload : List Byte) : State :=
  let s1 := beginStep s p r
  let g := (s1.spine p).ingest
  match pl.stream.classes[cls]? with
  | none => s
  | some c =>
    let a := sliceBase (pl.sites.getD c.home 0) + c.bufOff + g.step.toNat % 2 * c.bankStride + g.taken * c.slotStride
    let s2 := s1.poke p a (slice payload 0 c.maxLen)
    (ingestSignal s2 p pl c.home c.sigSlot g.step).modSpine p fun sp => { sp with ingest := { sp.ingest with
      taken := g.taken + 1, perClass := FMap.insert cls (FMap.getD g.perClass cls 0 + 1) g.perClass
      cntTaken := satAdd g.cntTaken 1 } }

/-- Ends the open step's ingest with the bytes of its manifest. -/
def endStep (s : State) (p : Nat) (pl : Plan) (bytes : List Byte) : State :=
  let g := (s.spine p).ingest
  let h := pl.stream.hdr
  let s1 := s.poke p (sliceBase (pl.sites.getD h.manCore 0) + h.manOff + 64 * (g.step.toNat % 2)) bytes
  (ingestSignal s1 p pl h.manCore h.manSlot g.step).modSpine p fun sp => { sp with ingest := { sp.ingest with
    step := g.step + 1, taken := 0, perClass := [], rejected := 0, phaseOpen := false, formed := true
    phases := g.phases.map fun a => if a.step = g.step then { a with
      stop := s.ticks.toNat, ended := true, temp := s.degrees 95 } else a } }

/-- Writes the manifest of the open step and records it in the ring. -/
def closeStep (s : State) (p : Nat) (pl : Plan) (flags : Nat) : State :=
  let g := (s.spine p).ingest
  let bytes := manifestBytes g pl.stream.hdr flags
  let s1 := s.ringAppend p pl g.step 0 1 0 [] bytes
  if (s1.spine p).st = .loaded then endStep s1 p pl bytes else s1

/-- Whether the plan runs and its replay ring, if it has one, has room for n bytes. -/
def State.ringRoom (s : State) (p : Nat) (pl : Plan) (n : Nat) : Bool :=
  (s.spine p).st = .loaded && match pl.ckpt with
    | some ck => ringFits (s.spine p).ingot ck n
    | none => true

/-- The island waits for room in the replay ring: the next record would not fit (R336). -/
def State.waitRing (s : State) (p : Nat) (wait : Bool) : State :=
  s.modSpine p fun sp => { sp with ingot := { sp.ingot with ringWait := wait } }

/-- Ends the open step when the ring has room for its manifest; whether it did. -/
def tryCloseStep (s : State) (p : Nat) (pl : Plan) (flags : Nat) : State × Bool :=
  if s.ringRoom p pl 128 then (closeStep (s.waitRing p false) p pl flags, true) else (s.waitRing p true, false)

/-- Count mode: a step with its B samples ends (R273); whether none is left to end. -/
def finishStep (s : State) (p : Nat) (pl : Plan) : State × Bool :=
  let h := pl.stream.hdr
  if h.window || (s.spine p).ingest.taken < h.batch then (s, true) else tryCloseStep s p pl 0

/-- Closes the open window and opens window w, as far as the ring has room: a manifest if a sample was taken, then the
window record (R273, R335, R336). Windows passed over without a step count as empty. by_ is bit 1 for a stamp, bit 2 for a
close record. Whether w is open. -/
def closeWindow (s : State) (p : Nat) (pl : Plan) (w : Int) (by_ : Nat) : State × Bool :=
  let r := if 0 < (s.spine p).ingest.taken then tryCloseStep s p pl (1 + 2 ^ by_) else (s, true)
  if !r.2 then r
  else if !r.1.ringRoom p pl 64 then (r.1.waitRing p true, false)
  else
    let s1 := (r.1.waitRing p false).modSpine p fun sp =>
      let g := sp.ingest
      { sp with ingest := { g with
        window := w, held := false, formed := false
        empty := satAdd g.empty ((w - g.window).toNat - b2n g.formed) } }
    (s1.ringAppend p pl (s1.spine p).ingest.step 0 2 w [] [], true)

/-- Counts a rejection and writes its record, unless the host's ring is full (R276, R357). -/
def rejectSample (s : State) (p : Nat) (pl : Plan) (hdr : List Byte) (reason : Nat) : State :=
  let g := (s.spine p).ingest
  let h := pl.stream.hdr
  let full := decide (2 ^ h.rejK ≤ g.rejWritten - (s.port p).rejRd.toNat)
  let bytes := slice hdr 0 32 ++ leBytes 1 reason ++ List.replicate 7 0 ++ leBytes 8 g.step.toNat ++
    leBytes 8 (wrap 64 g.window) ++ List.replicate 8 0
  let s1 := if full then s else s.poke p (h.rejBase + 64 * (g.rejWritten % 2 ^ h.rejK)) bytes
  s1.modSpine p fun sp => { sp with ingest := { sp.ingest with
    rejected := g.rejected + 1, cntRejected := satAdd g.cntRejected 1
    rejLost := if full then satAdd g.rejLost 1 else g.rejLost
    rejWritten := if full then g.rejWritten else g.rejWritten + 1 } }

/-! ### The host's ingest ring (R356, R465) -/

/-- n bytes at byte count x of the ingest ring: none at an address fault. -/
def State.ingRead (s : State) (p x n : Nat) : Option (List Byte) :=
  let po := s.port p
  let len := po.ingLen.toNat
  let off := x % len
  let first := min n (len - off)
  match s.hostRead p (po.ingBase.toNat + off) first with
  | none => none
  | some a => if first = n then some a else (s.hostRead p po.ingBase.toNat (n - first)).map (a ++ ·)

/-- Bytes the host has published from byte count x on. -/
def Port.avail (po : Port) (x : Nat) : Nat := po.ingProd.toNat - x

/-- A fault on the ring: the ingest island reports it (R21, R311) and reads no further record until the ring is enabled
again (R465). -/
def State.ingFaulted (s : State) (p : Nat) : State :=
  (s.reportFrom 0x10 59 588 (some p) 0).modPort p fun po => { po with ingFault := true }

/-- A sample record header (R271 Table 6). -/
structure SampleHdr where
  length : Nat
  cls : Nat
  flags : Nat
  stamp : Int
  crc : Word32
  rsv : Nat
  deriving DecidableEq, Repr

def sampleHdr (l : List Byte) : SampleHdr :=
  { length := ofLe (slice l 0 4), cls := ofLe (slice l 4 1), flags := ofLe (slice l 5 1)
    stamp := signed 64 (ofLe (slice l 8 8)), crc := BitVec.ofNat 32 (ofLe (slice l 0x18 4)), rsv := ofLe (slice l 0x1C 4) }

/-- A close record (R271). -/
def SampleHdr.close (h : SampleHdr) : Bool := h.cls = 0xFF && h.length = 0

/-- The first check of Table 7 that fails before the payload is read. -/
def rejectReason (pl : Plan) (g : Ingest) (ingLen : Nat) (h : SampleHdr) : Option Nat :=
  let c? := if h.cls < 16 then pl.stream.classes[h.cls]? else none
  if h.flags ≠ 0 || h.rsv ≠ 0 || h.length = 0 || ingLen < 32 + h.length then some 5
  else match c? with
  | none => some 2
  | some c =>
    if !c.en then some 2
    else if c.maxLen < h.length then some 1
    else if pl.stream.hdr.window && windowOf pl.stream.hdr h.stamp < g.window then some 4
    else if pl.stream.hdr.window && windowOf pl.stream.hdr h.stamp = g.window && pl.stream.hdr.batch ≤ g.taken then some 6
    else none

/-- Advances ING_CONS. -/
def State.consume (s : State) (p n : Nat) : State :=
  s.modPort p fun po => { po with ingCons := po.ingCons + BitVec.ofNat 64 n }

/-- Whether the island may read a live record: the ring enabled without error, no replay supply, and no wait for a
bank (R274, R277, R356). -/
def liveIngest (s : State) (p : Nat) : Bool :=
  let po := s.port p
  let sp := s.spine p
  sp.st = .loaded && !sp.ingest.replaying && po.ingEn && !po.lenErr && !po.ingFault && !bankWait sp.ingest

/-- Takes or rejects the live sample whose header is h at the ring's head, or holds it (R272, R273). -/
def examine (s : State) (p : Nat) (r : AllotRec) (pl : Plan) (hb : List Byte) (h : SampleHdr) : State :=
  let po := s.port p
  let g := (s.spine p).ingest
  let sh := pl.stream.hdr
  let x := po.ingCons.toNat
  if po.ingLen.toNat < 32 + h.length then
    (rejectSample s p pl hb 5).modPort p fun po => { po with lenErr := true }
  else if po.avail x < 32 + h.length then s
  else match rejectReason pl g po.ingLen.toNat h with
  | some c => (rejectSample s p pl hb c).consume p (32 + h.length)
  | none =>
    let w := windowOf sh h.stamp
    if sh.window && g.window < w then
      if lagPassed sh g.window h.stamp then (closeWindow s p pl w 1).1
      else s.modSpine p fun sp => { sp with ingest := { sp.ingest with held := true } }
    else if !s.ringRoom p pl (64 + roundUp h.length 64) then s.waitRing p true
    else match s.ingRead p (x + 32) h.length with
    | none => s.ingFaulted p
    | some payload =>
      if crc32c payload ≠ h.crc then (rejectSample s p pl hb 3).consume p (32 + h.length)
      else
        let s1 := (s.waitRing p false).ringAppend p pl g.step g.taken 0 0 hb payload
        if (s1.spine p).st ≠ .loaded then s1 else
          (finishStep ((takeSample s1 p r pl h.cls payload).consume p (32 + h.length)) p pl).1

/-- Reads n bytes of the replay ring, piece by piece. -/
def State.ringLoad (s : State) (p : Nat) (ck : CkptSec) (off n : Nat) : Except ReadResult (List Byte) × State :=
  let r := readEach p (ringPieces ck off n) s
  (r.1.map List.flatten, r.2)

/-- Supplies the next record of the replay ring (R277, R337 step 7). -/
def supply (s : State) (p : Nat) (r : AllotRec) (pl : Plan) (ck : CkptSec) (x : RingRec) (rest : List RingRec) : State :=
  match s.ringLoad p ck x.off x.len with
  | (.error .fault, s) => (s.reportFrom 0x12 58 0xFFFF (some p) 3).abandonStep p
  | (.error _, s) => s.abandonStep p
  | (.ok l, s) =>
    let len := ofLe (slice l 0x0C 4)
    let next (s : State) : State := s.modSpine p fun sp => { sp with
      ingot := { sp.ingot with fromRing := rest }, ingest := { sp.ingest with replaying := rest ≠ [] } }
    if x.kind = 0 then
      next (takeSample s p r pl (ofLe (slice l 0x24 1)) (slice l 64 len))
    else if x.kind = 1 then next (endStep s p pl (slice l 64 64))
    else next (s.modSpine p fun sp => { sp with ingest := { sp.ingest with
      window := signed 64 (ofLe (slice l 0x10 8)), formed := false } })

/-- INGEST_RECORD: the island examines the sample record at the head of its queue, or during a replay takes the next
record of the replay ring. -/
def execIngestRecord (port : Nat) (s : State) : Outcome State Fault Refusal :=
  s.onAllot port fun s =>
    let sp := s.spine port
    match s.record port, sp.plan with
    | some r, some pl =>
      if sp.ingest.replaying then
        if sp.st ≠ .loaded || bankWait sp.ingest then s
        else match pl.ckpt, sp.ingot.fromRing with
        | some ck, x :: rest => supply s port r pl ck x rest
        | _, _ => s.modSpine port fun sp => { sp with ingest := { sp.ingest with replaying := false } }
      else
        let (s, ended) := finishStep s port pl
        if !ended || !liveIngest s port then s
        else
        let po := s.port port
        if po.avail po.ingCons.toNat < 32 then s
        else match s.ingRead port po.ingCons.toNat 32 with
        | none => s.ingFaulted port
        | some hb => if (sampleHdr hb).close then s else examine s port r pl hb (sampleHdr hb)
    | _, _ => s

/-- The first close record past byte count x whose index is at least w: its index, none, or an address fault on the
ring (R273, R465). -/
def scanClose (s : State) (p : Nat) (w : Int) : Nat → Nat → Except Unit (Option Int)
  | 0, _ => .ok none
  | f + 1, x =>
    let po := s.port p
    if po.avail x < 32 then .ok none
    else match s.ingRead p x 32 with
    | none => .error ()
    | some hb =>
      let h := sampleHdr hb
      if h.close then (if w ≤ h.stamp then .ok (some h.stamp) else scanClose s p w f (x + 32))
      else if po.ingLen.toNat < 32 + h.length || po.avail x < 32 + h.length then .ok none
      else scanClose s p w f (x + 32 + h.length)

/-- CLOSE_RECORD: the close record at the head of the queue is consumed, or one past a held sample acts (R273). -/
def execCloseRecord (port : Nat) (s : State) : Outcome State Fault Refusal :=
  s.onAllot port fun s =>
    match (s.spine port).plan with
    | none => s
    | some pl =>
      let g := (s.spine port).ingest
      let po := s.port port
      let x := po.ingCons.toNat
      let sh := pl.stream.hdr
      if !liveIngest s port || po.avail x < 32 then s
      else match s.ingRead port x 32 with
      | none => s.ingFaulted port
      | some hb =>
        let h := sampleHdr hb
        if h.close then
          if !sh.window || h.stamp < g.window then s.consume port 32
          else
            let r := closeWindow s port pl (int64 (h.stamp + 1)) 2
            if r.2 then r.1.consume port 32 else r.1
        else if !g.held then s
        else match scanClose s port g.window (po.avail x / 32 + 1) (x + 32 + h.length) with
        | .error _ => s.ingFaulted port
        | .ok none => s
        | .ok (some k) => (closeWindow s port pl (max (windowOf sh h.stamp) (int64 (k + 1))) 2).1

end Sys2Proof.Machine
end

