-- ==== Sys2Proof/Machine/Registers.lean ====
section
/-! DEFINITION. Access codes, halves and the loader alias (R7–R9, R426, R427, R433), and the registers of the core and
island blocks (R436–R439) with the defining tables of the other chapters. -/

namespace Sys2Proof.Machine

open Host (Outcome)

/-! ### Fields and registers -/

/-- The access codes of Table 2 of Scope, Readers and Conventions. -/
inductive Acc where
  | rw
  | ro
  | wo
  | w1c
  | rc
  | rwl
  deriving DecidableEq, Repr

/-- A field: its bits, its code, and whether it reports the live state of a unit, which no alias write changes. -/
structure Field where
  hi : Nat
  lo : Nat
  acc : Acc
  live : Bool
  deriving DecidableEq, Repr

def rw_ (hi lo : Nat) : Field := { hi, lo, acc := .rw, live := false }
def ro_ (hi lo : Nat) : Field := { hi, lo, acc := .ro, live := false }
def live_ (hi lo : Nat) : Field := { hi, lo, acc := .ro, live := true }
def wo_ (hi lo : Nat) : Field := { hi, lo, acc := .wo, live := true }
def w1c_ (hi lo : Nat) : Field := { hi, lo, acc := .w1c, live := false }
def rc_ (hi lo : Nat) : Field := { hi, lo, acc := .rc, live := false }
def rwl_ (hi lo : Nat) : Field := { hi, lo, acc := .rwl, live := false }

/-- A register: its fields, its value, what storing a value does (with the values that read back as others), and what
a direct write triggers: the value before, and the bits written to the fields that the access reaches; and what storing a
value through the loader alias does, where that differs. -/
structure Reg where
  fields : List Field
  get : State → Word
  put : Word → State → State
  act : Word → Word → State → State := fun _ _ s => s
  aliasPut : Word → State → State := put

/-- The part of a register that an access reaches: all of it, or one half (R427). -/
inductive Part where
  | whole
  | half (upper : Bool)
  deriving DecidableEq, Repr

/-- A 32-bit access reaches a field that lies wholly in its half (R427). -/
def Field.within (f : Field) : Part → Bool
  | .whole => true
  | .half false => f.hi < 32
  | .half true => 32 ≤ f.lo

/-- The bits a write stores in one field (R7). -/
def Field.written (f : Field) (locked : Bool) (old v : Word) : Nat :=
  match f.acc with
  | .rw => fld v f.hi f.lo
  | .rwl => if locked then fld old f.hi f.lo else fld v f.hi f.lo
  | .w1c => fld (old &&& ~~~v) f.hi f.lo
  | .ro | .wo | .rc => fld old f.hi f.lo

/-- The value of a register after a write of v to a part of it. -/
def Reg.merge (r : Reg) (part : Part) (locked : Bool) (old v : Word) : Word :=
  (r.fields.filter fun f => f.within part).foldl (fun w f => setFld w f.hi f.lo (f.written locked old v)) old

/-- The bits of v in the fields that a write reaches. -/
def Reg.sent (r : Reg) (part : Part) (v : Word) : Word :=
  (r.fields.filter fun f => f.within part).foldl (fun w f => setFld w f.hi f.lo (fld v f.hi f.lo)) 0

/-- A write of v to a part of a register; one that reaches no field changes nothing. -/
def Reg.write (r : Reg) (part : Part) (locked : Bool) (v : Word) (s : State) : State :=
  let old := r.get s
  if r.fields.all fun f => !f.within part then s
  else r.act old (r.sent part v) (r.put (r.merge part locked old v) s)

/-- A write through the loader alias: every field that is not live takes the bits written (R433). -/
def Reg.aliasWrite (r : Reg) (part : Part) (v : Word) (s : State) : State :=
  let old := r.get s
  r.aliasPut ((r.fields.filter fun f => f.within part && !f.live).foldl
    (fun w f => setFld w f.hi f.lo (fld v f.hi f.lo)) old) s

/-- A read clears the RC fields that it reaches (R7, R427). -/
def Reg.readClear (r : Reg) (part : Part) (s : State) : State :=
  let fs := r.fields.filter fun f => f.within part && f.acc = .rc
  if fs.isEmpty then s else r.put (fs.foldl (fun w f => setFld w f.hi f.lo 0) (r.get s)) s

/-- A word from fields and their values. -/
def packFields (l : List (Nat × Nat × Nat)) : Word := l.foldl (fun w x => setFld w x.1 x.2.1 x.2.2) 0

/-- A register that nothing writes. -/
def Reg.fixed (fields : List Field) (get : State → Word) : Reg := { fields, get, put := fun _ s => s }

/-- Ring exponent limits: a written k below 4 reads back as 4, and one above 20 as 20 (Table 5). -/
def clampK (w : Word) : Word := setFld w 63 58 (max 4 (min 20 (fld w 63 58)))

/-! ### The core block (R436–R438) -/

/-- A register kept as one word of a core. -/
def Reg.ofCore (x : Nat) (fields : List Field) (get : Core → Word) (put : Word → Core → Core) : Reg :=
  { fields, get := fun s => get (s.core x), put := fun w s => s.modCore x (put w) }

/-- CORE_ID (Table 4): its site, island and position are the core's own until the loader alias sets others (R433). -/
def coreId (x : Nat) : Reg :=
  let own : Word := packFields [(41, 32, x), (25, 20, islandOf x), (19, 16, posOf x)]
  Reg.ofCore x [ro_ 41 32, ro_ 25 20, ro_ 19 16, ro_ 10 10, ro_ 9 9, ro_ 8 0]
    (fun c =>
      let w := c.ident.getD own
      packFields [(41, 32, fld w 41 32), (25, 20, fld w 25 20), (19, 16, fld w 19 16), (10, 10, b2n c.fenced),
        (9, 9, b2n c.bound), (8, 0, c.rel)])
    (fun w c =>
      let id : Word := packFields [(41, 32, fld w 41 32), (25, 20, fld w 25 20), (19, 16, fld w 19 16)]
      { c with ident := if id = own then none else some id, fenced := bit w 10, bound := bit w 9, rel := fld w 8 0 })

/-- PHASE_RING and PHASE_MISS (Tables 5 and 6). -/
def phaseRingReg (x : Nat) : Reg :=
  Reg.ofCore x [rw_ 63 58, rw_ 51 5] (fun c => c.phaseRing) (fun w c => { c with phaseRing := clampK w })
def phaseMissReg (x : Nat) : Reg :=
  Reg.ofCore x [ro_ 63 32, ro_ 31 0] (fun c => c.misses ++ c.head)
    (fun w c => { c with misses := w.extractLsb' 32 32, head := w.extractLsb' 0 32 })

/-- WHEEL_CTL (Table 4 of Cores, Threads and the Planned Schedule). -/
def wheelCtl (x : Nat) : Reg :=
  Reg.ofCore x [rw_ 45 40, live_ 39 28, live_ 27 23, live_ 22 19, live_ 18 16, rw_ 1 1, live_ 0 0]
    (fun c => packFields [(45, 40, c.wdogLog2), (39, 28, c.cursor.toNat), (27, 23, c.left), (22, 19, c.segNext),
      (18, 16, c.segment), (1, 1, b2n c.hold), (0, 0, b2n c.stall)])
    (fun w c => { c with wdogLog2 := max 16 (min 40 (fld w 45 40)), hold := bit w 1 })

/-- TASK_FLT: writing 1 to valid clears valid, more and retry (Table 7 of the same chapter). -/
def taskFltReg (x : Nat) : Reg :=
  { Reg.ofCore x [ro_ 63 56, ro_ 47 43, ro_ 39 32, ro_ 29 16, ro_ 7 4, ro_ 3 2, w1c_ 0 0]
      (fun c => c.taskFlt) (fun w c => { c with taskFlt := w }) with
    act := fun _ v s => if bit v 0 then s.modCore x fun c => { c with taskFlt := setFld (setFld c.taskFlt 7 4 0) 3 2 0 } else s }

/-- MX_CFG: a written scale_log2 of 0 reads back as 1 (Table 4 of The Matrix Array). -/
def mxCfgReg (x : Nat) : Reg :=
  Reg.ofCore x [rw_ 7 4, rw_ 1 0] (fun c => c.mxCfg)
    (fun w c => { c with mxCfg := if fld w 7 4 = 0 then setFld w 7 4 1 else w })

def TileState.code : TileState → Nat
  | .empty => 0
  | .opened => 1
  | .draining => 2
  | .replaying => 3

/-- One half of TILE_STAT (Table 5 of The Matrix Array). -/
def Tile.stat (t : Tile) : BitVec 32 :=
  let w := packFields [(31, 30, t.st.code), (29, 28, t.replays), (27, 20, wrap 8 t.sx), (19, 13, t.recs.length),
    (12, 12, b2n t.repVoid), (11, 11, b2n t.boundVoid), (10, 10, b2n t.sat), (9, 9, b2n t.ovf), (8, 8, b2n t.nan),
    (7, 7, b2n t.inf), (6, 6, b2n t.sticky), (5, 5, b2n t.discard), (4, 1, t.cvt.toNat)]
  w.setWidth 32

/-- The fields of a half of TILE_STAT that begin at bit o. -/
def tileFields (o : Nat) : List Field :=
  [live_ (31 + o) (30 + o), live_ (29 + o) (28 + o), live_ (27 + o) (20 + o), live_ (19 + o) (13 + o)] ++
  (List.range 12).map fun k => live_ (1 + k + o) (1 + k + o)

def tileStat (x : Nat) : Reg := Reg.fixed (tileFields 0 ++ tileFields 32) fun s => (s.core x).tb.stat ++ (s.core x).ta.stat
def tileCnt (x : Nat) : Reg :=
  Reg.fixed [live_ 63 32, live_ 31 0] fun s => BitVec.ofNat 32 (s.core x).tb.cnt ++ BitVec.ofNat 32 (s.core x).ta.cnt

/-- SP_FLT: writing 1 to valid clears valid and more (Table 4 of Transposable Sparsity). -/
def spFltReg (x : Nat) : Reg :=
  { Reg.ofCore x [ro_ 47 32, ro_ 23 20, ro_ 19 18, ro_ 17 15, ro_ 12 12, ro_ 11 7, ro_ 6 5, w1c_ 0 0]
      (fun c => c.spFlt) (fun w c => { c with spFlt := w }) with
    act := fun _ v s => if bit v 0 then s.modCore x fun c => { c with spFlt := setFld c.spFlt 23 20 0 } else s }

/-- STQ_STATn (Table 2 of Streams, Prefetch and DMA). A released entry is free once the ring has dropped it, behind every
earlier one (R262). -/
def Queue.stat (q : Queue) : Word :=
  let n (st : EntryState) : Nat := q.ring.countP fun e => e.st = st
  let depth := if bit q.cfg 0 then fld q.cfg 39 28 + 1 else 0
  packFields [(63, 48, q.misses), (47, 41, q.reqs.length), (40, 28, n .present), (27, 15, n .taken),
    (14, 2, depth - q.ring.length)]

/-- Packed 16-bit table entries k to k + 3 of a 64-bit window word. -/
def packed (m : FMap (BitVec 16)) (k : Nat) : Word :=
  packFields ((List.range 4).map fun j => (16 * j + 15, 16 * j, (FMap.getD m (k + j) 0).toNat))
def unpacked (w : Word) (k : Nat) (m : FMap (BitVec 16)) : FMap (BitVec 16) :=
  (List.range 4).foldl (fun m j => FMap.insert (k + j) (BitVec.ofNat 16 (fld w (16 * j + 15) (16 * j))) m) m

/-- Word j of the descriptor-slot window of one slot (Table 7): the 80-byte image, then the valid bit. -/
def slotWord (d : Option DescImg) (j : Nat) : Word :=
  match d with
  | none => 0
  | some d =>
    let w : List Word := [d.base, d.allocBase, d.allocLen, d.aux, d.e1 ++ d.e0, d.e3 ++ d.e2, d.sLo, d.sHi,
      d.rsv.extractLsb' 0 32 ++ d.shape ++ d.access ++ d.format ++ d.kind, d.rsv.extractLsb' 32 64, 1]
    w.getD j 0

/-- The writable table windows of Table 7: offsets below 0x3_6000. -/
def inWindow (o : Nat) : Bool := 0x10000 ≤ o && o < 0x36000

/-- The table windows (R438, Tables 7 to 9). -/
def coreWindow (x o : Nat) : Option Reg :=
  if 0x10000 ≤ o && o < 0x30000 then
    let pc := (o - 0x10000) / 8
    some (Reg.ofCore x [rw_ 63 0] (fun c => c.word pc) (fun w c => { c with code := FMap.insert pc w c.code }))
  else if 0x30000 ≤ o && o < 0x32000 then
    let k := (o - 0x30000) / 2
    some (Reg.ofCore x ((List.range 4).flatMap fun j => [rw_ (16 * j + 15) (16 * j + 8), rw_ (16 * j + 7) (16 * j + 4)])
      (fun c => packed c.wheel k) (fun w c => { c with wheel := unpacked w k c.wheel }))
  else if 0x32000 ≤ o && o < 0x32040 then
    let k := (o - 0x32000) / 8
    some (Reg.ofCore x [rw_ 23 12, rw_ 11 0] (fun c => FMap.getD c.segs k 0)
      (fun w c => { c with segs := FMap.insert k w c.segs }))
  else if 0x34000 ≤ o && o < 0x34200 then
    let k := (o - 0x34000) / 16
    if o % 16 = 0 then
      some (Reg.ofCore x [rw_ 63 62, rw_ 61 54, rw_ 53 46, rw_ 45 43, rw_ 42 41, rw_ 40 35, rw_ 34 19, rw_ 18 17, rw_ 16 16,
          rw_ 15 15, rw_ 14 6, rw_ 5 0]
        (fun c => (c.task k).extractLsb' 0 64)
        (fun w c => { c with tasks := FMap.insert k ((c.task k).extractLsb' 64 64 ++ w) c.tasks }))
    else
      some (Reg.ofCore x [rw_ 63 12, rw_ 11 0] (fun c => (c.task k).extractLsb' 64 64)
        (fun w c => { c with tasks := FMap.insert k (w ++ (c.task k).extractLsb' 0 64) c.tasks }))
  else if 0x35000 ≤ o && o < 0x35400 then
    let k := (o - 0x35000) / 2
    some (Reg.ofCore x ((List.range 4).flatMap fun j => [rw_ (16 * j + 15) (16 * j + 15), rw_ (16 * j + 9) (16 * j)])
      (fun c => packed c.binding k) (fun w c => { c with binding := unpacked w k c.binding }))
  else if 0x36000 ≤ o && o < 0x38000 then
    let d := (o - 0x36000) / 128
    some (Reg.fixed [live_ 63 0] fun s => slotWord (FMap.find d (s.core x).tds) (o % 128 / 8))
  else none

/-- The register at offset o of the core block of site x (Table 3). -/
def coreReg (x o : Nat) : Option Reg :=
  if o = 0x0000 then some (coreId x)
  else if o = 0x0010 then some (phaseRingReg x)
  else if o = 0x0018 then some (phaseMissReg x)
  else if o = 0x0040 then some (wheelCtl x)
  else if o = 0x0048 then some (taskFltReg x)
  else if o = 0x0080 then some (mxCfgReg x)
  else if o = 0x0088 then some (tileStat x)
  else if o = 0x0090 then some (tileCnt x)
  else if o = 0x00A0 then some (spFltReg x)
  else if o = 0x00A8 then
    some (Reg.ofCore x [ro_ 63 0] (fun c => c.spFltWord) (fun w c => { c with spFltWord := w }))
  else if o = 0x00B0 then
    some (Reg.ofCore x [ro_ 63 0] (fun c => c.prdFbStep) (fun w c => { c with prdFbStep := w }))
  else if 0x00C0 ≤ o && o < 0x00E0 then
    let n := (o - 0x00C0) / 8
    some (Reg.ofCore x [ro_ 63 0] (fun c => FMap.getD c.prdFb n 0) (fun w c => { c with prdFb := FMap.insert n w c.prdFb }))
  else if 0x0100 ≤ o && o < 0x0180 then
    let n := (o - 0x0100) / 8
    some (Reg.ofCore x [ro_ 63 32, ro_ 31 0] (fun c => FMap.getD c.prdCnt n 0)
      (fun w c => { c with prdCnt := FMap.insert n w c.prdCnt }))
  else if o = 0x0180 then
    some (Reg.ofCore x [ro_ 47 16, ro_ 0 0] (fun c => packFields [(47, 16, c.cdrn.toNat), (0, 0, b2n c.priv)])
      (fun w c => { c with cdrn := w.extractLsb' 16 32, priv := bit w 0 }))
  else if o = 0x0190 then
    some (Reg.ofCore x [ro_ 63 56, ro_ 55 0] (fun c => c.lscale) (fun w c => { c with lscale := w }))
  else if o = 0x01A0 then
    some (Reg.ofCore x [ro_ 63 32, ro_ 31 0] (fun c => c.vecOob) (fun w c => { c with vecOob := w }))
  else if o = 0x01A8 then
    some (Reg.ofCore x [ro_ 31 0] (fun c => c.vecLane.setWidth 64) (fun w c => { c with vecLane := w.extractLsb' 0 32 }))
  else if 0x0200 ≤ o && o < 0x0300 then
    let n := (o - 0x0200) / 16
    if o % 16 = 0 then
      some (Reg.ofCore x [rw_ 63 44, rw_ 39 28, rw_ 27 24, rw_ 0 0] (fun c => (c.queue n).cfg)
        (fun w c => c.setQueue n { c.queue n with cfg := w }))
    else some (Reg.fixed [live_ 63 48, live_ 47 41, live_ 40 28, live_ 27 15, live_ 14 2] fun s => ((s.core x).queue n).stat)
  else coreWindow x o

/-! ### The island block (R439) -/

/-- A register kept as one word of an island. -/
def Reg.ofIsland (i : Nat) (fields : List Field) (get : Island → Word) (put : Word → Island → Island) : Reg :=
  { fields, get := fun s => get (s.island i), put := fun w s => s.modIsland i (put w) }

/-- ISL_CLK (Table 7 of Clock Islands, Power and Energy Limits). -/
def islClk (i : Nat) : Reg :=
  Reg.fixed [live_ 47 32, live_ 27 24, live_ 23 20, live_ 19 16, live_ 1 1, live_ 0 0] fun s =>
    let x := s.island i
    packFields [(47, 32, clockMhz x.step), (27, 24, s.pstate i), (23, 20, x.capStep), (19, 16, x.planStep),
      (1, 1, b2n x.relock.isSome), (0, 0, b2n x.calStale)]

/-- ISL_OPP and ISL_CAL (Table 11 of the same chapter). -/
def islOpp (i : Nat) : Reg :=
  Reg.ofIsland i [rw_ 55 48, rw_ 47 40, rw_ 39 32, ro_ 15 0]
    (fun x => packFields [(55, 48, x.oppTemp.toNat), (47, 40, x.oppTol.toNat), (39, 32, x.oppClkTol.toNat),
      (15, 0, x.staleCnt.toNat)])
    (fun w x => { x with oppTemp := w.extractLsb' 48 8, oppTol := w.extractLsb' 40 8, oppClkTol := w.extractLsb' 32 8
                         staleCnt := w.extractLsb' 0 16 })
def islCal (i : Nat) : Reg :=
  Reg.ofIsland i [ro_ 63 60, ro_ 59 52, ro_ 31 0]
    (fun x => packFields [(63, 60, x.calStep.toNat), (59, 52, x.calTemp.toNat), (31, 0, x.calRest.toNat)])
    (fun w x => { x with calStep := w.extractLsb' 60 4, calTemp := w.extractLsb' 52 8, calRest := w.extractLsb' 0 32 })

/-- ISL_DROOP (Table 12 of the same chapter). -/
def islDroop (i : Nat) : Reg :=
  Reg.ofIsland i [ro_ 63 32, rw_ 31 16, rw_ 15 0] (fun x => x.stretched ++ x.faultMv ++ x.stretchMv)
    (fun w x => { x with stretched := w.extractLsb' 32 32, faultMv := w.extractLsb' 16 16, stretchMv := w.extractLsb' 0 16 })

/-- ISL_SENS (Table 11). -/
def islSens (i : Nat) : Reg :=
  Reg.ofIsland i [ro_ 63 48, ro_ 31 16, ro_ 15 0]
    (fun x => packFields [(63, 48, x.vmin.toNat), (31, 16, x.temp1.toNat), (15, 0, x.temp0.toNat)])
    (fun w x => { x with vmin := w.extractLsb' 48 16, temp1 := w.extractLsb' 16 16, temp0 := w.extractLsb' 0 16 })

def ChanState.code : ChanState → Nat
  | .idle => 0
  | .ready => 1
  | .running => 2

/-- A go of the register: DMA_CHn_NEXT starts an idle channel; a channel that is not idle sets go_lost (R278). The
channel's step is that of the allotment. -/
def State.goChan (s : State) (i n : Nat) : State :=
  let c := (s.island i).chan n
  if c.st ≠ .idle then s.modIsland i fun x => x.setChan n { x.chan n with goLost := true }
  else
    let step := match s.allotOfIsland i with | some p => (s.spine p).step | none => 0
    s.modIsland i fun x => x.startChan s.ticks n c.next none step

/-- DMA_CHn_CTL (Table 16 of Streams, Prefetch and DMA): a stop acts before a go of the same write. -/
def dmaCtl (i n : Nat) : Reg :=
  { Reg.ofIsland i [ro_ 63 48, rc_ 47 40, live_ 7 5, live_ 4 3, w1c_ 2 2, wo_ 1 1, wo_ 0 0]
      (fun x =>
        let c := x.chan n
        packFields [(63, 48, c.owner.toNat), (47, 40, c.irqMore.toNat), (7, 5, c.ending.toNat), (4, 3, c.st.code),
          (2, 2, b2n c.goLost)])
      (fun w x => x.setChan n { x.chan n with
        owner := w.extractLsb' 48 16, irqMore := w.extractLsb' 40 8, goLost := bit w 2 }) with
    act := fun _ v s =>
      let s1 := if bit v 1 then s.stopChannel i n else s
      if bit v 0 then s1.goChan i n else s1 }

/-- DMA_CHn_NEXT (Table 17): addr keeps its value while the channel is not idle, and ft5 reads 0 and ignores writes on
a channel that a core owns (R290); the loader alias sets them at any time (R433). -/
def dmaNext (i n : Nat) : Reg :=
  { Reg.ofIsland i [rw_ 51 6, rw_ 0 0]
    (fun x => packFields [(51, 6, fld (x.chan n).next 51 6),
      (0, 0, if (x.chan n).owner = 0xFFFF then fld (x.chan n).next 0 0 else 0)])
    (fun w x =>
      let c := x.chan n
      let a := if c.st = .idle then fld w 51 6 else fld c.next 51 6
      let f := if c.owner = 0xFFFF then bit w 0 else false
      x.setChan n { c with next := packFields [(51, 6, a), (0, 0, b2n f)] }) with
    aliasPut := fun w s => s.modIsland i fun x =>
      x.setChan n { x.chan n with next := packFields [(51, 6, fld w 51 6), (0, 0, fld w 0 0)] } }

/-- tiles_left, pending and busy of VETCH_STAT as the unit's work sets them. -/
def Vetch.work (v : Vetch) : Word :=
  packFields [(63, 32, v.pendingTiles.length), (1, 1, b2n (!v.pendingTiles.isEmpty)),
    (0, 0, b2n (v.phaseOn || !v.captures.isEmpty))]

/-- VETCH_STAT (Table 6 of Mask Evolution). Its tiles_left, pending and busy keep what the loader alias has set until the
unit's work next changes them (R433). -/
def vetchStat (i : Nat) : Reg :=
  Reg.ofIsland i [ro_ 63 32, ro_ 5 5, ro_ 4 4, ro_ 3 3, ro_ 2 2, ro_ 1 1, ro_ 0 0]
    (fun x =>
      let v := x.vetch
      let w := match v.statSet with | some (l, w) => if l = v.work then w else v.work | none => v.work
      packFields [(63, 32, fld w 63 32), (5, 5, b2n v.illegal), (4, 4, b2n v.short), (3, 3, b2n v.noList),
        (2, 2, b2n v.skipped), (1, 1, fld w 1 1), (0, 0, fld w 0 0)])
    (fun w x => { x with vetch := { x.vetch with
      illegal := bit w 5, short := bit w 4, noList := bit w 3, skipped := bit w 2
      statSet := some (x.vetch.work, w) } })

/-- ISL_SCRUB: k below 8 reads back as 8 (Table 13 of Dependability). -/
def islScrub (i : Nat) : Reg :=
  Reg.ofIsland i [ro_ 63 32, rw_ 31 16, rw_ 4 0]
    (fun x => packFields [(63, 32, x.scrubPasses.toNat), (31, 16, x.ceLim.toNat), (4, 0, x.scrubK.toNat)])
    (fun w x => { x with scrubPasses := w.extractLsb' 32 32, ceLim := w.extractLsb' 16 16
                         scrubK := BitVec.ofNat 5 (max 8 (fld w 4 0)) })

/-- A 64-bit RO register of an island. -/
def islWord (i : Nat) (get : Island → Word) (put : Word → Island → Island) : Option Reg :=
  some (Reg.ofIsland i [ro_ 63 0] get put)

/-- The register at offset o of the island block i (Table 10). -/
def islandReg (i o : Nat) : Option Reg :=
  if o = 0x0000 then some (islClk i)
  else if o = 0x0008 then some (Reg.fixed [live_ 63 0] fun s => s.islCnt i)
  else if o = 0x0010 then islWord i (fun x => x.mark0) (fun w x => { x with mark0 := w })
  else if o = 0x0018 then islWord i (fun x => x.mark1) (fun w x => { x with mark1 := w })
  else if o = 0x0020 then islWord i (fun x => x.mark2) (fun w x => { x with mark2 := w })
  else if o = 0x0028 then islWord i (fun x => x.wall0) (fun w x => { x with wall0 := w })
  else if o = 0x0030 then islWord i (fun x => x.wall1) (fun w x => { x with wall1 := w })
  else if o = 0x0038 then some (islOpp i)
  else if o = 0x0040 then some (islCal i)
  else if o = 0x0048 then
    some (Reg.fixed [live_ 63 32, live_ 31 0] fun s =>
      packFields [(63, 32, (s.island i).gov.allowed), (31, 0, (s.island i).gov.planned)])
  else if o = 0x0050 then
    some (Reg.fixed [live_ 63 32, live_ 31 0] fun s =>
      packFields [(63, 32, (s.island i).gov.ballast), (31, 0, (s.island i).gov.estimate)])
  else if o = 0x0058 then some (islDroop i)
  else if o = 0x0060 then some (islSens i)
  else if 0x2000 ≤ o && o < 0x2400 then
    let n := (o - 0x2000) / 32
    if o % 32 = 0 then some (dmaCtl i n) else if o % 32 = 8 then some (dmaNext i n) else none
  else if o = 0x2400 then
    some (Reg.ofIsland i [w1c_ 31 0] (fun x => x.irq.setWidth 64) (fun w x => { x with irq := w.extractLsb' 0 32 }))
  else if o = 0x2408 then
    some (Reg.ofIsland i [rw_ 31 0] (fun x => x.irqEn.setWidth 64) (fun w x => { x with irqEn := w.extractLsb' 0 32 }))
  else if o = 0x2410 then
    some (Reg.ofIsland i [w1c_ 31 0] (fun x => x.irqErr.setWidth 64) (fun w x => { x with irqErr := w.extractLsb' 0 32 }))
  else if o = 0x3000 then some (vetchStat i)
  else if o = 0x3008 then
    islWord i (fun x => x.vetch.statStep) (fun w x => { x with vetch := { x.vetch with statStep := w } })
  else if 0x3010 ≤ o && o < 0x3048 then
    let n := (o - 0x3010) / 8
    islWord i (fun x => FMap.getD x.vetch.cnts n 0)
      (fun w x => { x with vetch := { x.vetch with cnts := FMap.insert n w x.vetch.cnts } })
  else if o = 0x3100 then islWord i (fun x => x.spillBytes) (fun w x => { x with spillBytes := w })
  else if o = 0x3108 then islWord i (fun x => x.spillDense) (fun w x => { x with spillDense := w })
  else if 0x3200 ≤ o && o < 0x3280 then
    let n := (o - 0x3200) / 8
    some (Reg.ofIsland i [ro_ 63 58, ro_ 57 48, ro_ 47 32, ro_ 31 0] (fun x => FMap.getD x.ecc n 0)
      (fun w x => { x with ecc := FMap.insert n w x.ecc }))
  else if o = 0x3300 then
    some (Reg.ofIsland i [ro_ 31 16, ro_ 15 0] (fun x => packFields [(31, 16, x.sliceFence.toNat), (15, 0, x.coreFence.toNat)])
      (fun w x => { x with sliceFence := w.extractLsb' 16 16, coreFence := w.extractLsb' 0 16 }))
  else if o = 0x3308 then some (islScrub i)
  else if o = 0x3310 then
    some (Reg.ofIsland i [rw_ 51 6, rw_ 5 4, rw_ 0 0] (fun x => x.inj) (fun w x => { x with inj := w }))
  else none

end Sys2Proof.Machine
end

