-- ==== Sys2Proof/Machine/Blocks.lean ====
section
/-! DEFINITION. The registers of the memory-controller, host-port and spine blocks and of the Hallmark mailbox
(R440–R445), with the defining tables of the other chapters. -/

namespace Sys2Proof.Machine

open Host (Outcome)

/-! ### The memory-controller and Planisher block (R440, R441) -/

/-- A register kept as one word of a package. -/
def Reg.ofPkg (n : Nat) (fields : List Field) (get : Package → Word) (put : Word → Package → Package) : Reg :=
  { fields, get := fun s => get (s.pkg n), put := fun w s => s.modPkg n (put w) }

/-- MEM_STAT (Table 13). -/
def memStat (n : Nat) : Reg :=
  Reg.fixed [ro_ 63 48, ro_ 47 40, ro_ 3 3, ro_ 2 2, ro_ 1 1, ro_ 0 0] fun s =>
    let x := s.pkg n
    packFields [(63, 48, x.rate.toNat), (47, 40, x.temp.toNat), (3, 3, b2n x.selfRef), (2, 2, b2n x.fenced),
      (1, 1, b2n x.withheld), (0, 0, b2n x.alt)]

/-- PLN_STAT (Table 9 of Gradient Reduction and the Planisher). -/
def plnStat (n : Nat) : Reg :=
  Reg.fixed [ro_ 63 32, ro_ 4 4, ro_ 3 3, ro_ 2 2, ro_ 1 1, ro_ 0 0] fun s =>
    let x := s.pkg n
    let busy := decide (x.pass ≠ .none)
    let sweep := match x.msg with | some m => busy && decide (m.sweep ≠ 0) | none => false
    packFields [(63, 32, x.todo.length), (4, 4, b2n sweep), (3, 3, b2n x.clearOnly), (2, 2, b2n (!x.changes.isEmpty)),
      (1, 1, b2n x.waiting), (0, 0, b2n busy)]

/-- The register at offset o of the block of package n (Table 12). -/
def memReg (n o : Nat) : Option Reg :=
  if o = 0x0000 then some (memStat n)
  else if o = 0x1000 then
    some (Reg.ofPkg n [rw_ 51 12] (fun x => x.grpBase) (fun w x => { x with grpBase := w }))
  else if o = 0x1008 then some (plnStat n)
  else if o = 0x1010 then some (Reg.fixed [ro_ 63 32, ro_ 31 0] fun s => (s.pkg n).mism ++ (s.pkg n).assayed)
  else if o = 0x1018 then
    some (Reg.ofPkg n [rw_ 63 58, rw_ 51 5] (fun x => x.ring) (fun w x => { x with ring := clampK w }))
  else if o = 0x1100 then
    some (Reg.fixed [ro_ 63 57, ro_ 56 48, ro_ 47 32, ro_ 31 0] fun s =>
      let x := s.pkg n
      packFields [(63, 57, x.spares), (56, 48, x.ue), (47, 32, x.link), (31, 0, x.ce.toNat)])
  else if o = 0x1108 then
    some (Reg.ofPkg n [ro_ 63 32, rw_ 31 16, rw_ 4 0]
      (fun x => packFields [(63, 32, x.scrubPasses.toNat), (31, 16, x.ceLim.toNat), (4, 0, x.scrubK.toNat)])
      (fun w x => { x with ceLim := w.extractLsb' 16 16, scrubK := w.extractLsb' 0 5 }))
  else if o = 0x1118 then
    some (Reg.ofPkg n [rw_ 51 6, rw_ 5 4, rw_ 0 0] (fun x => x.inj) (fun w x => { x with inj := w }))
  else none

/-! ### The host-port block (R442) -/

/-- A register kept in a port. -/
def Reg.ofPort (p : Nat) (fields : List Field) (get : Port → Word) (put : Word → Port → Port) : Reg :=
  { fields, get := fun s => get (s.port p), put := fun w s => s.modPort p (put w) }

/-- PORT_STAT (Table 11 of Host Ports and Allotments); the anchor is the lowest island of the rectangle (R350). -/
def portStat (p : Nat) : Reg :=
  Reg.fixed [ro_ 39 32, ro_ 27 26, ro_ 25 22, ro_ 21 18, ro_ 12 12, ro_ 11 8, ro_ 7 0] fun s =>
    let x := s.port p
    let (row, col) := match s.record p with | some r => (r.row0, r.col0) | none => (0, 0)
    packFields [(39, 32, x.stop.toNat), (27, 26, (s.spine p).st.code), (25, 22, row), (21, 18, col), (12, 12, b2n x.flit),
      (11, 8, x.rate.toNat), (7, 0, x.width.toNat)]

/-- size_log2 of a queue: a written value above 11 reads back as 11 (Table 12). -/
def clampSize (w : Word) : Word := setFld w 4 1 (min 11 (fld w 4 1))

/-- While en is 1 only en itself can be written (R353). -/
def lockedCfg (old new : Word) : Word := if bit old 0 then setFld old 0 0 (fld new 0 0) else clampSize new

/-- A queue that is enabled starts its ring anew: head and tail 0, phase 1 (R354). -/
def QueuePair.enableSq (q : QueuePair) (w : Word) : QueuePair :=
  let fresh := bit w 0 && !bit q.sqCfg 0
  { q with sqCfg := w, sqHead := if fresh then 0 else q.sqHead, tail := if fresh then 0 else q.tail }
def QueuePair.enableCq (q : QueuePair) (w : Word) : QueuePair :=
  let fresh := bit w 0 && !bit q.cqCfg 0
  { q with cqCfg := w, cqTail := if fresh then 0 else q.cqTail, cqHead := if fresh then 0 else q.cqHead
           phase := fresh || q.phase }

def qsCfg (p k : Nat) : Reg :=
  Reg.ofPort p [rw_ 51 12, rw_ 4 1, rw_ 0 0] (fun x => (x.qp k).sqCfg)
    (fun w x => x.setQp k ((x.qp k).enableSq (lockedCfg (x.qp k).sqCfg w)))

/-- QCk_CFG; enabling completion queue 0 delivers the buffered events (R355). -/
def qcCfg (p k : Nat) : Reg :=
  { Reg.ofPort p [rw_ 62 52, rw_ 51 12, rw_ 5 5, rw_ 4 1, rw_ 0 0] (fun x => (x.qp k).cqCfg)
      (fun w x => x.setQp k ((x.qp k).enableCq (lockedCfg (x.qp k).cqCfg w))) with
    act := fun _ _ s => if k = 0 then deliverEvents p (s.port p).events s else s }

/-- SQk_TAIL: a tail beyond the ring is ignored and sets err (R354). -/
def sqTailReg (p k : Nat) : Reg :=
  { Reg.ofPort p [w1c_ 63 63, rw_ 14 0]
      (fun x => packFields [(63, 63, b2n (x.qp k).tailErr), (14, 0, (x.qp k).tail.toNat)])
      (fun w x =>
        let q := x.qp k
        let ok := fld w 14 0 < ringEntries q.sqCfg
        x.setQp k { q with tailErr := bit w 63, tail := if ok then w.extractLsb' 0 15 else q.tail }) with
    act := fun _ v s => s.modPort p fun x =>
      if fld v 14 0 < ringEntries (x.qp k).sqCfg then x else x.setQp k { x.qp k with tailErr := true } }

/-- CQk_HEAD: released slots take waiting events (R354, R355). -/
def cqHeadReg (p k : Nat) : Reg :=
  { Reg.ofPort p [rw_ 14 0] (fun x => (x.qp k).cqHead.setWidth 64)
      (fun w x => x.setQp k { x.qp k with cqHead := w.extractLsb' 0 15 }) with
    act := fun _ _ s => if k = 0 then deliverEvents p (s.port p).events s else s }

/-- ING_CFG: clearing en sets both counts to 0 and clears len_err and fault (R356). -/
def ingCfgReg (p : Nat) : Reg :=
  Reg.ofPort p [ro_ 3 3, ro_ 2 2, w1c_ 1 1, rw_ 0 0]
    (fun x => packFields [(3, 3, b2n x.ingFault), (2, 2, b2n x.lenErr), (1, 1, b2n x.prodErr), (0, 0, b2n x.ingEn)])
    (fun w x =>
      let off := x.ingEn && !bit w 0
      { x with ingEn := bit w 0, prodErr := bit w 1
               lenErr := x.lenErr && !off, ingFault := x.ingFault && !off
               ingProd := if off then 0 else x.ingProd, ingCons := if off then 0 else x.ingCons })

/-- ING_BASE and ING_LEN are ignored while en is 1 (R356); ING_LEN reads back as a power of two from 2^16 to 2^32. -/
def ingBaseReg (p : Nat) : Reg :=
  Reg.ofPort p [rw_ 51 12] (fun x => x.ingBase) (fun w x => if x.ingEn then x else { x with ingBase := w })
def ingLenReg (p : Nat) : Reg :=
  Reg.ofPort p [rw_ 32 0] (fun x => x.ingLen)
    (fun w x => if x.ingEn then x else { x with ingLen := BitVec.ofNat 64 (2 ^ max 16 (min 32 w.toNat.log2)) })

/-- ING_PROD: a write that decreases it or leads ING_CONS by more than ING_LEN is ignored and sets prod_err (R356). -/
def ingProdReg (p : Nat) : Reg :=
  { Reg.ofPort p [rw_ 63 0] (fun x => x.ingProd) (fun _ x => x) with
    act := fun _ v s => s.modPort p fun x =>
      if v.toNat < x.ingProd.toNat || x.ingCons.toNat + x.ingLen.toNat < v.toNat then { x with prodErr := true }
      else { x with ingProd := v } }

/-- ING_STAT (Table 9 of Streams, Prefetch and DMA). -/
def ingStat (p : Nat) : Reg :=
  Reg.fixed [ro_ 63 32, ro_ 31 16, ro_ 2 2, ro_ 1 1, ro_ 0 0] fun s =>
    let g := (s.spine p).ingest
    packFields [(63, 32, wrap 32 g.window), (31, 16, g.taken), (2, 2, b2n g.replaying), (1, 1, b2n g.held),
      (0, 0, b2n (decide ((s.spine p).st = .loaded) && bankWait g))]

/-- The register at offset o of the block of port p (Table 14), apart from the MSI-X table and PBA. -/
def portReg (p o : Nat) : Option Reg :=
  if o = 0x0000 then some (portStat p)
  else if 0x0100 ≤ o && o < 0x0200 then
    let k := (o - 0x0100) / 32
    some (if o % 32 = 0 then qsCfg p k else if o % 32 = 8 then qcCfg p k else if o % 32 = 16 then sqTailReg p k
      else cqHeadReg p k)
  else if o = 0x0200 then some (ingCfgReg p)
  else if o = 0x0208 then some (ingBaseReg p)
  else if o = 0x0210 then some (ingLenReg p)
  else if o = 0x0218 then some (ingProdReg p)
  else if o = 0x0220 then some (Reg.fixed [ro_ 63 0] fun s => (s.port p).ingCons)
  else if o = 0x0228 then some (Reg.ofPort p [rw_ 63 0] (fun x => x.rejRd) (fun w x => { x with rejRd := w }))
  else if o = 0x0300 then some (Reg.ofPort p [rw_ 51 12] (fun x => x.aptBase) (fun w x => { x with aptBase := w }))
  else if o = 0x0308 then some (Reg.fixed [ro_ 31 24, ro_ 23 20, ro_ 19 16] fun _ => devRev)
  else if o = 0x0400 then some (ingStat p)
  else if o = 0x0408 then some (Reg.fixed [ro_ 63 0] fun s => (s.spine p).ingest.cntTaken)
  else if o = 0x0410 then some (Reg.fixed [ro_ 63 0] fun s => (s.spine p).ingest.cntRejected)
  else if o = 0x0418 then some (Reg.fixed [ro_ 63 0] fun s => (s.spine p).ingest.rejLost)
  else if o = 0x0420 then some (Reg.fixed [ro_ 63 0] fun s => (s.spine p).ingest.empty)
  else if 0x20000 ≤ o && o < 0x28000 then
    let e := (o - 0x20000) / 8
    some { fields := [rw_ 63 28, rw_ 3 3, rw_ 2 2, rw_ 1 1, rw_ 0 0], get := fun s => (s.port p).winEntry e
           put := fun w s => (s.keepWindows p).modPort p fun x => { x with win := FMap.insert e w x.win } }
  else none

/-- Raises the pending messages of vectors that are no longer masked (PCIe). -/
def Port.unmask (x : Port) (vec : Nat) : Port :=
  let w := FMap.getD x.pba (vec / 64) 0
  if bit w (vec % 64) && !bit (FMap.getD x.msix (4 * vec + 3) 1) 0 then
    { x with pba := FMap.insert (vec / 64) (setFld w (vec % 64) (vec % 64) 0) x.pba, msiRaised := x.msiRaised + 1 }
  else x

/-- A 32-bit write to the MSI-X table (R442): message address bits 1:0 and vector control bits 31:1 are reserved. -/
def Port.msixWrite (x : Port) (k : Nat) (v : Word32) : Port :=
  let w := if k % 4 = 0 then setFld v 1 0 0 else if k % 4 = 3 then v &&& 1 else v
  Port.unmask { x with msix := FMap.insert k w x.msix } (k / 4)

/-- The MSI-X table and PBA follow PCIe: aligned 32-bit and 64-bit accesses; the PBA is read only. -/
def State.msixAccess (s : State) (p o size : Nat) (v : Word) : State :=
  if 0x18000 ≤ o then s
  else s.modPort p fun x =>
    let k := (o - 0x10000) / 4
    let x1 := x.msixWrite k (v.extractLsb' 0 32)
    if size = 8 then x1.msixWrite (k + 1) (v.extractLsb' 32 32) else x1

/-! ### The spine block (R443, R444) -/

/-- A register kept in a spine partition. -/
def Reg.ofSpine (p : Nat) (fields : List Field) (get : Spine → Word) (put : Word → Spine → Spine) : Reg :=
  { fields, get := fun s => get (s.spine p), put := fun w s => s.modSpine p (put w) }

/-- SPN_LS (Table 14 of Gradient Reduction and the Planisher). -/
def spnLs (p : Nat) : Reg :=
  Reg.ofSpine p [rw_ 63 56, ro_ 55 40, ro_ 39 38, ro_ 37 35]
    (fun x => packFields [(63, 56, x.ls.toNat), (55, 40, x.clean.toNat), (39, 38, x.outcome.toNat), (37, 35, x.cause.toNat)])
    (fun w x => { x with ls := w.extractLsb' 56 8 })

/-- INGOT_STAT (Table 8 of Dependability). -/
def Ingot.stat (g : Ingot) : Word :=
  packFields [(63, 48, g.replays), (47, 40, g.skipped), (39, 32, g.forced), (31, 27, g.run), (6, 6, b2n (g.lost || g.lostPrev)),
    (5, 5, b2n g.replaying), (4, 4, b2n g.cutting), (3, 3, b2n g.ringWait), (2, 2, b2n g.exporting), (1, 1, g.slot),
    (0, 0, b2n g.none_)]

/-- INGOT_EXP: writing 1 to go starts an export (R334). -/
def ingotExp (p : Nat) : Reg :=
  { Reg.ofSpine p [rw_ 51 6, ro_ 2 1, wo_ 0 0]
      (fun x => packFields [(51, 6, fld x.ingot.expAddr 51 6), (2, 1, x.ingot.expStatus)])
      (fun w x => { x with ingot := { x.ingot with expAddr := packFields [(51, 6, fld w 51 6)] } }) with
    act := fun _ v s => if bit v 0 then s.startExport p else s }

/-- A request record from its 96 bytes (R256). -/
def DescReq.ofBytes (l : List Byte) : DescReq :=
  let w (a n : Nat) : Nat := ofLe (slice l a n)
  { core := BitVec.ofNat 16 (w 0 2), slot := BitVec.ofNat 8 (w 2 1), mode := BitVec.ofNat 8 (w 3 1)
    home := BitVec.ofNat 16 (w 4 2), rsv := BitVec.ofNat 80 (w 6 10)
    img := {
      base := BitVec.ofNat 64 (w 16 8), allocBase := BitVec.ofNat 64 (w 24 8), allocLen := BitVec.ofNat 64 (w 32 8)
      aux := BitVec.ofNat 64 (w 40 8), e0 := BitVec.ofNat 32 (w 48 4), e1 := BitVec.ofNat 32 (w 52 4)
      e2 := BitVec.ofNat 32 (w 56 4), e3 := BitVec.ofNat 32 (w 60 4), sLo := BitVec.ofNat 64 (w 64 8)
      sHi := BitVec.ofNat 64 (w 72 8), kind := BitVec.ofNat 8 (w 80 1), format := BitVec.ofNat 8 (w 81 1)
      access := BitVec.ofNat 8 (w 82 1), shape := BitVec.ofNat 8 (w 83 1), rsv := BitVec.ofNat 96 (w 84 12) } }

/-- A go of the validator: the request is taken with the binding in force, busy is set, and done, code and slot clear; while
a request is being checked a go is ignored (R444). -/
def State.submitRequest (s : State) (p : Nat) : State :=
  s.modSpine p fun x =>
    if x.valBusy.isSome then x
    else
      let req := DescReq.ofBytes ((List.range 12).flatMap fun n => leBytes 8 (FMap.getD x.valReq n 0).toNat)
      let sites := match x.plan with | some pl => pl.sites | none => []
      { x with valBusy := some (sites, req), valDone := false, valCode := 0, valSlot := 0 }

/-- The validator of partition p answers the request that it checks: translated, checked and, on acceptance, written to its
slot. -/
def State.finishCheck (s : State) (p : Nat) : State :=
  match (s.spine p).valBusy with
  | none => s
  | some (sites, req) =>
    let (code, s1) := match submit s p sites req with
      | .ok s1 => (0, s1)
      | .error c => (c, s)
    s1.modSpine p fun x => { x with
      valBusy := none, valCode := BitVec.ofNat 8 code, valSlot := req.slot, valDone := true }

/-- One tick of the module's time, in which the validators answer what they check: busy lasts at most 256 spine cycles
(R444; the tick is the model's, log entry 33). -/
def State.tick (s : State) : State :=
  { forEach (s.spines.map Prod.fst) s State.finishCheck with ticks := s.ticks + 1 }

/-- VAL_CTL (Table 18). -/
def valCtl (p : Nat) : Reg :=
  { Reg.ofSpine p [ro_ 23 16, ro_ 15 8, w1c_ 2 2, ro_ 1 1, wo_ 0 0]
      (fun x => packFields [(23, 16, x.valCode.toNat), (15, 8, x.valSlot.toNat), (2, 2, b2n x.valDone),
        (1, 1, b2n x.valBusy.isSome)])
      (fun w x => { x with valDone := bit w 2 }) with
    act := fun _ v s => if bit v 0 then s.submitRequest p else s }

/-- The register at offset o of spine partition p (Table 16). -/
def spineReg (p o : Nat) : Option Reg :=
  if o = 0x000 then
    some (Reg.ofSpine p [rw_ 1 1, rw_ 0 0] (fun x => x.vcfg.setWidth 64) (fun w x => { x with vcfg := w.extractLsb' 0 2 }))
  else if o = 0x008 then
    some (Reg.ofSpine p [rw_ 63 32, rw_ 31 0] (fun x => x.skipThr ++ x.clipThr)
      (fun w x => { x with skipThr := w.extractLsb' 32 32, clipThr := w.extractLsb' 0 32 }))
  else if o = 0x010 then
    some (Reg.ofSpine p [rw_ 63 56, rw_ 55 48, rw_ 47 32, rw_ 31 24, rw_ 23 16, rw_ 15 8, rw_ 7 0] (fun x => x.lstbl)
      (fun w x => { x with lstbl := lstblHeld w }))
  else if o = 0x018 then some (spnLs p)
  else if o = 0x020 then
    some (Reg.ofSpine p [rw_ 63 58, rw_ 51 5] (fun x => x.vring) (fun w x => { x with vring := clampK w }))
  else if o = 0x028 then some (Reg.fixed [ro_ 63 0] fun s => (s.spine p).step)
  else if o = 0x100 then
    some (Reg.fixed [ro_ 63 48, ro_ 47 40, ro_ 39 32, ro_ 31 27, ro_ 6 6, ro_ 5 5, ro_ 4 4, ro_ 3 3, ro_ 2 2, ro_ 1 1, ro_ 0 0]
      fun s => (s.spine p).ingot.stat)
  else if o = 0x108 then some (Reg.fixed [ro_ 63 0] fun s => (s.spine p).ingot.cutStep)
  else if o = 0x110 then some (ingotExp p)
  else if o = 0x118 then
    some (Reg.ofSpine p [rw_ 7 4, rw_ 3 0] (fun x => x.ingot.cfg) (fun w x => { x with ingot := { x.ingot with cfg := w } }))
  else if 0x200 ≤ o && o < 0x260 then
    let n := (o - 0x200) / 8
    some (Reg.ofSpine p [rw_ 63 0] (fun x => FMap.getD x.valReq n 0)
      (fun w x => if x.valBusy.isSome then x else { x with valReq := FMap.insert n w x.valReq }))
  else if o = 0x260 then some (valCtl p)
  else none

/-! ### The Hallmark mailbox (R387, R388, R445) -/

/-- A register of Hallmark. -/
def Reg.ofHm (fields : List Field) (get : Hallmark → Word) (put : Word → Hallmark → Hallmark) : Reg :=
  { fields, get := fun s => get s.hm, put := fun w s => s.modHm (put w) }

/-- HM_STAT (Table 17 of Hallmark). -/
def hmStat : Reg :=
  { fields := [ro_ 63 56, ro_ 39 32, rc_ 31 16, ro_ 15 8, ro_ 0 0]
    get := fun s =>
      let h := s.hm
      packFields [(63, 56, s.fwStateNow.toNat), (39, 32, h.alert.toNat), (31, 16, h.netDrop.toNat), (15, 8, h.svn.toNat),
        (0, 0, b2n h.jtagOpen)]
    put := fun w s => s.modHm fun h => { h with netDrop := w.extractLsb' 16 16 } }

/-- HM_FILTn_T and HM_FILTn_C (Table 19); assert and release are reserved for n = 4 (R387), and a written assert of 0
reads back as 1. -/
def filtT (n : Nat) : Reg :=
  Reg.ofHm ((if n = 4 then [] else [rwl_ 63 40, rwl_ 39 16]) ++ [rwl_ 15 0])
    (fun h =>
      let f := h.filter n
      packFields ((if n = 4 then [] else [(63, 40, f.release.toNat), (39, 16, f.assert.toNat)]) ++ [(15, 0, f.minPulse.toNat)]))
    (fun w h =>
      let f := h.filter n
      let a : BitVec 24 := BitVec.ofNat 24 (max 1 (fld w 39 16))
      { h with filters := FMap.insert n { f with
          release := if n = 4 then f.release else w.extractLsb' 40 24
          assert := if n = 4 then f.assert else a
          minPulse := w.extractLsb' 0 16 } h.filters })
def filtC (n : Nat) : Reg :=
  Reg.ofHm [rwl_ 63 48, ro_ 47 32, ro_ 2 2, ro_ 1 1, ro_ 0 0]
    (fun h =>
      let f := h.filter n
      packFields [(63, 48, f.alertAfter.toNat), (47, 32, f.chatter.toNat), (2, 2, b2n f.alerted), (1, 1, b2n f.active),
        (0, 0, b2n (if n = 4 then decide (0 < f.hi) else f.prev))])
    (fun w h => { h with filters := FMap.insert n { h.filter n with alertAfter := w.extractLsb' 48 16 } h.filters })

/-- HM_FLOW (Table 18). -/
def hmFlow : Reg :=
  Reg.ofHm [rwl_ 63 48, rwl_ 47 32, ro_ 15 0]
    (fun h => packFields [(63, 48, h.flowMin.toNat), (47, 32, h.ulPulse.toNat), (15, 0, h.flowRate.toNat)])
    (fun w h => { h with flowMin := w.extractLsb' 48 16, ulPulse := w.extractLsb' 32 16 })

/-- GOV_STAT (Table 14 of Clock Islands, Power and Energy Limits). -/
def govStat : Reg :=
  Reg.fixed [ro_ 63 32, ro_ 4 4, ro_ 3 3, ro_ 2 2, ro_ 1 1, ro_ 0 0] fun s =>
    let sum := (List.range 48).foldl (fun a g => a + (s.gov g).allowed) 0
    packFields [(63, 32, sum), (4, 4, b2n s.hm.trip), (3, 3, b2n (s.hm.leak && !s.hm.trip)),
      (2, 2, b2n (s.hm.brake && !s.hm.trip)),
      (1, 1, b2n s.hm.descending), (0, 0, b2n s.hm.rising)]

/-- BOOT_STAT (Table 8 of Start-Up and the Boot Journal). -/
def bootStat : Reg :=
  Reg.fixed [ro_ 63 32, ro_ 31 24, ro_ 23 16, ro_ 15 8, ro_ 3 3, ro_ 2 0] fun s =>
    let b := s.boot
    packFields [(63, 32, b.start), (31, 24, b.stopStep.toNat), (23, 16, b.reason.toNat), (15, 8, b.restarts), (3, 3, b2n b.ready),
      (2, 0, b.kind.toNat)]

/-- A register of mailbox partition p (Table 20 of Hallmark). -/
def mailboxReg (p o : Nat) : Option Reg :=
  let modBox (f : Word → Mailbox → Mailbox) (w : Word) (s : State) : State := s.modMailbox p (f w)
  if o = 0x0000 then
    some { fields := [wo_ 0 0], get := fun _ => 0, put := fun _ s => s, act := fun _ v s => if bit v 0 then s.doorbell p else s }
  else if o = 0x0008 then
    some {
      fields := [ro_ 15 8, w1c_ 1 1, ro_ 0 0]
      get := fun s => packFields [(15, 8, (s.hm.mailbox p).status.toNat), (1, 1, b2n (s.hm.mailbox p).done)]
      put := modBox fun w m => { m with done := bit w 1 } }
  else if o = 0x0010 then
    some {
      fields := [rw_ 31 0]
      get := fun s => (s.hm.mailbox p).period.setWidth 64
      put := modBox fun w m => { m with period := w.extractLsb' 0 32 } }
  else none

/-- The register at offset o of the mailbox block (Table 19), apart from the partitions' buffers. -/
def hallmarkReg (o : Nat) : Option Reg :=
  if o = 0x0000 then some hmStat
  else if o = 0x0008 then some (Reg.fixed [ro_ 31 24, ro_ 23 20, ro_ 19 16] fun _ => devRev)
  else if o = 0x0010 then some (Reg.fixed [ro_ 63 0] fun s => BitVec.ofNat 64 s.hm.logHead)
  else if o = 0x0018 then
    some (Reg.ofHm [rwl_ 0 0] (fun h => packFields [(0, 0, b2n h.filtLock)]) (fun w h => { h with filtLock := bit w 0 }))
  else if 0x0200 ≤ o && o < 0x0250 then
    let n := (o - 0x0200) / 16
    some (if o % 16 = 0 then filtT n else filtC n)
  else if o = 0x0260 then some hmFlow
  else if o = 0x0300 then
    some (Reg.fixed [ro_ 63 48, ro_ 47 40, ro_ 39 24] fun s =>
      packFields [(63, 48, s.hm.govFloor.toNat), (47, 40, s.hm.govSlew.toNat), (39, 24, s.hm.govIdle.toNat)])
  else if o = 0x0308 then some govStat
  else if o = 0x0400 then some bootStat
  else if 0x10000 ≤ o && o < 0x90000 then mailboxReg ((o - 0x10000) / 0x10000) (o % 0x10000)
  else none

end Sys2Proof.Machine
end

