-- ==== Sys2Proof/Machine/RegAccess.lean ====
section
/-! DEFINITION. Register accesses (R426–R429, R433, R435, R438): who reaches which block, what an access that may not
reach its address does, and the rows that read and write registers, sc.csr among them. -/

namespace Sys2Proof.Machine

open Host (Outcome)

/-- The CSR blocks (R27, R428). -/
inductive Block where
  | core (site : Nat)
  | island (i : Nat)
  | mem (n : Nat)
  | hallmark
  | port (p : Nat)
  | spine
  deriving DecidableEq, Repr

/-- The block and the offset of a CSR address (Table 4 of The Module as a Whole). -/
def blockAt (a : Nat) : Option (Block × Nat) :=
  let o := a % 0x100000
  let at_ (base count : Nat) : Bool := base ≤ a && a < base + count * 0x100000
  if at_ 0xF00000000000 576 then some (.core ((a - 0xF00000000000) / 0x100000), o)
  else if at_ 0xF10000000000 36 then some (.island ((a - 0xF10000000000) / 0x100000), o)
  else if at_ 0xF20000000000 12 then some (.mem ((a - 0xF20000000000) / 0x100000), o)
  else if at_ 0xF30000000000 1 then some (.hallmark, o)
  else if at_ 0xF40000000000 8 then some (.port ((a - 0xF40000000000) / 0x100000), o)
  else if at_ 0xF50000000000 1 then some (.spine, o)
  else none

/-- The register at an offset of a block, a multiple of 8, apart from the loader alias. -/
def regAt (b : Block) (o : Nat) : Option Reg :=
  match b with
  | .core x => coreReg x o
  | .island i => islandReg i o
  | .mem n => memReg n o
  | .hallmark => hallmarkReg o
  | .port p => portReg p o
  | .spine => if o < 0x8000 then spineReg (o / 0x1000) (o % 0x1000) else none

/-- Whether a requester reaches an offset of a block (R428 Table 1). -/
def State.reaches (s : State) (who : Requester) (b : Block) (o : Nat) (wr : Bool) : Bool :=
  match who with
  | .hallmark => true
  | .thread _ => false
  | .host q => b = .port q && (s.record q).isSome
  | .os q =>
    match b with
    | .core x => s.allotOfSite x = some q
    | .island i => s.allotOfIsland i = some q
    | .mem n => s.allotOfPkg n = some q
    | .port p => p = q && (s.record q).isSome
    | .spine => o / 0x1000 = q && (s.record q).isSome
    | .hallmark => (s.record q).isSome && ((o < 0x1000 && !wr) || (0x10000 ≤ o && (o - 0x10000) / 0x10000 = q))

/-- The byte buffers of the mailbox partitions, and the MSI-X table and PBA, which have access rules of their own. -/
def inBuffer (b : Block) (o : Nat) : Bool :=
  b = .hallmark && 0x10000 ≤ o && o < 0x90000 && 0x1000 ≤ o % 0x10000 && o % 0x10000 < 0x3000
def inMsix (b : Block) (o : Nat) : Bool :=
  (match b with | .port _ => true | _ => false) && 0x10000 ≤ o && o < 0x18100

/-- Size and alignment (R426; R445 for the buffers). -/
def sizeOk (b : Block) (o size : Nat) : Bool :=
  (size = 4 || size = 8 || (inBuffer b o && (size = 1 || size = 2))) && o % size = 0

/-- What an access to a block meets (R435). -/
inductive Met where
  | fault
  | readOnly
  | open_
  deriving DecidableEq, Repr

def State.blockMet (s : State) (b : Block) : Met :=
  match b with
  | .core x =>
    if s.boot.badSites.contains x || (s.island (islandOf x)).clockLost then .fault
    else if (s.core x).fenced || s.boot.withheldSites.contains x then .readOnly else .open_
  | .island i => if (s.island i).clockLost then .fault else .open_
  | .mem n => if s.lostClocks.contains (36 + n) then .fault else if s.pkgOk n then .open_ else .readOnly
  | .port p => if s.lostClocks.contains (48 + p) then .fault else .open_
  | .spine => if s.lostClocks.contains 58 then .fault else .open_
  | .hallmark => if s.lostClocks.contains 57 then .fault else .open_

/-- An access that ends with an address fault: a host's completes as Unsupported Request, which AER reports as class
0x10 (R343, R428); one of an application core outside its ranges is reported as class 0x10 (R359). -/
def State.accessFault (s : State) (who : Requester) (outside : Bool) : State :=
  match who with
  | .host p => s.reportFrom 0x10 (48 + p) 0xFFFF (some p) 0
  | .os p => if outside then s.reportFrom 0x10 56 0xFFFF (some p) 0 else s
  | .hallmark | .thread _ => s

/-- A host's access at an offset of its block needs a link, and a stream that is not Insecure (R343, R345). -/
def State.linked (s : State) (who : Requester) (o : Nat) : Bool :=
  match who with
  | .host p => (s.port p).rate ≠ 0 && !(s.port p).discards (Config.ideInbound p 0 o)
  | .hallmark | .os _ | .thread _ => true

/-- The part that an access of a size at an offset reaches. -/
def partOf (o size : Nat) : Part := if size = 8 then .whole else .half (decide (o % 8 = 4))

/-- The value of an access in its place in the 64-bit register. -/
def placed (o size : Nat) (v : Word) : Word :=
  if size = 8 then v else if o % 8 = 4 then (v.setWidth 32).setWidth 64 <<< 32 else (v.setWidth 32).setWidth 64

/-- Whether the table windows and the alias of a block accept writes: WHEEL_CTL.hold is 1 in the core, or in every
core of the island (R433, R438). -/
def State.held (s : State) (b : Block) : Bool :=
  match b with
  | .core x => (s.core x).hold
  | .island i => (List.range 16).all fun k => (s.core (16 * i + k)).hold
  | _ => false

/-- Whether a block has a loader alias, which holds offsets from 0x8_0000 on. -/
def hasAlias (b : Block) : Bool := match b with | .core _ | .island _ => true | _ => false

/-- A write that reached its block. -/
def State.blockWrite (s : State) (b : Block) (o size : Nat) (v : Word) : State :=
  let part := partOf o size
  let w := placed o size v
  if inBuffer b o then
    let p := (o - 0x10000) / 0x10000
    let a := o % 0x10000
    let bytes := leBytes size v.toNat
    s.modMailbox p fun m =>
      if a < 0x2000 then { m with request := Memory.write m.request (a - 0x1000) bytes }
      else { m with response := Memory.write m.response (a - 0x2000) bytes }
  else if inMsix b o then match b with | .port p => s.msixAccess p o size v | _ => s
  else if hasAlias b && 0x80000 ≤ o then
    match regAt b ((o - 0x80000) / 8 * 8) with
    | some r => if s.held b then r.aliasWrite part w s else s
    | none => s
  else match regAt b (o / 8 * 8) with
  | none => s
  | some r =>
    let window := match b with | .core _ => inWindow o | _ => false
    if window && !s.held b then s else r.write part s.hm.filtLock w s

/-- A read that reached its block: it clears the RC fields it takes, unless it goes through the alias (R7, R433). -/
def State.blockRead (s : State) (b : Block) (o size : Nat) : State :=
  if inBuffer b o || inMsix b o || (hasAlias b && 0x80000 ≤ o) then s
  else match regAt b (o / 8 * 8) with
  | some r => r.readClear (partOf o size) s
  | none => s

/-- An access of an application core outside the CSR blocks reaches the memory its allotment holds (R28, R359). -/
def State.osAccess (s : State) (p a size : Nat) (wr : Option Word) : State :=
  match wr with
  | some v => (s.store p a (leBytes size v.toNat)).getD (s.accessFault (.os p) true)
  | none => match s.readCk p a size .clean with
    | (.fault, s1) => s1.accessFault (.os p) true
    | (_, s1) => s1

/-- A register access of a requester: unreachable, misaligned and dead addresses end with an address fault, and a
fenced core or a fenced or withheld package ignores writes (R426, R428, R435). -/
def State.regAccess (s : State) (who : Requester) (a size : Nat) (wr : Option Word) : State :=
  match blockAt a with
  | none => match who with
    | .os p => s.osAccess p a size wr
    | .host _ | .hallmark | .thread _ => if s.linked who (a % 0x100000) then s.accessFault who true else s
  | some (b, o) =>
    if !s.linked who o then s
    else if !s.reaches who b o wr.isSome then s.accessFault who true
    else if !sizeOk b o size then s.accessFault who false
    else match s.blockMet b, wr with
    | .fault, _ => s.accessFault who false
    | .readOnly, some _ => s
    | _, some v => s.blockWrite b o size v
    | _, none => s.blockRead b o size

/-- The value that a 64-bit read at offset o of a block returns, without side effect (R428, R430). -/
def State.regValue (s : State) (b : Block) (o : Nat) : Word :=
  let o := if hasAlias b && 0x80000 ≤ o then o - 0x80000 else o
  match regAt b o with
  | some r => r.get s
  | none => 0

/-! ### The rows -/

/-- sc.csr: rd := the register of the thread's own core at an offset, without side effect (R300, R301, R430). -/
def execScCsr (i : Issue) (o : FS) (s : State) : Outcome State Fault Refusal :=
  issue (.scCsr i o) i [o.rd.toNat]
    (fun k s => .next (s.modThread k fun t => t.setReg o.rd.toNat (s.regValue (.core k.site) o.imm.toNat))) s

/-- A register command of a module that is on. -/
def State.onReg (s : State) (ok : Bool) (who : Requester) (a size : Nat) (wr : Option Word) :
    Outcome State Fault Refusal :=
  s.onUnit ok fun s => s.regAccess who a size wr

/-- The address of a half of a register. -/
def halfAddr (a size half : Nat) : Nat := if size = 4 then a + 4 * (half % 2) else a

def execDmaChGo (who : Requester) (island ch : Nat) (s : State) : Outcome State Fault Refusal :=
  s.onReg (decide (island < 36) && decide (ch < 32)) who (0xF10000000000 + island * 0x100000 + 0x2000 + 32 * ch) 8 (some 1)

def execDmaChStop (who : Requester) (island ch : Nat) (s : State) : Outcome State Fault Refusal :=
  s.onReg (decide (island < 36) && decide (ch < 32)) who (0xF10000000000 + island * 0x100000 + 0x2000 + 32 * ch) 8 (some 2)

/-- The address of offset o of the host-port block of port p. -/
def portAddr (p o : Nat) : Nat := 0xF40000000000 + p * 0x100000 + o

def execIngProdWrite (who : Requester) (port : Nat) (value : Word) (s : State) : Outcome State Fault Refusal :=
  s.onReg (decide (port < 8)) who (portAddr port 0x218) 8 (some value)

def execIngCfgWrite (who : Requester) (port size half : Nat) (value : Word) (s : State) : Outcome State Fault Refusal :=
  s.onReg (decide (port < 8)) who (halfAddr (portAddr port 0x200) size half) size (some value)

def execSqTailDoorbell (who : Requester) (port k size half : Nat) (value : Word) (s : State) :
    Outcome State Fault Refusal :=
  s.onReg (decide (port < 8) && decide (k < 8)) who (halfAddr (portAddr port (0x110 + 32 * k)) size half) size (some value)

def execCqHeadWrite (who : Requester) (port k size half : Nat) (value : Word) (s : State) :
    Outcome State Fault Refusal :=
  s.onReg (decide (port < 8) && decide (k < 8)) who (halfAddr (portAddr port (0x118 + 32 * k)) size half) size (some value)

/-- The address of offset o of spine partition p. -/
def spineAddr (p o : Nat) : Nat := 0xF50000000000 + p * 0x1000 + o

def execIngotExpGo (who : Requester) (allot size half : Nat) (value : Word) (s : State) : Outcome State Fault Refusal :=
  s.onReg (decide (allot < 8)) who (halfAddr (spineAddr allot 0x110) size half) size (some value)

def execValidatorRequest (who : Requester) (allot size half : Nat) (value : Word) (s : State) :
    Outcome State Fault Refusal :=
  s.onReg (decide (allot < 8)) who (halfAddr (spineAddr allot 0x260) size half) size (some value)

def execMbxWdogWrite (who : Requester) (allot size half : Nat) (value : Word) (s : State) : Outcome State Fault Refusal :=
  s.onReg (decide (allot < 8)) who (halfAddr (0xF30000010010 + allot * 0x10000) size half) size (some value)

/-- LOADER_ALIAS_WRITE: a write in the alias of a core or island block; any other address is not this command. -/
def execLoaderAliasWrite (who : Requester) (addr size : Nat) (value : Word) (s : State) : Outcome State Fault Refusal :=
  match blockAt addr with
  | some (b, o) =>
    if hasAlias b && 0x80000 ≤ o then s.onReg true who addr size (some value) else .next s
  | none => .next s

/-- TABLE_WINDOW_WRITE: a write in a table window of a core block; any other address is not this command. -/
def execTableWindowWrite (who : Requester) (addr size : Nat) (value : Word) (s : State) : Outcome State Fault Refusal :=
  match blockAt addr with
  | some (.core _, o) =>
    if 0x10000 ≤ o && o < 0x38000 then s.onReg true who addr size (some value) else .next s
  | _ => .next s

/-- RC_REGISTER_READ: a read of a register; the RC fields it takes clear. -/
def execRcRegisterRead (who : Requester) (addr size : Nat) (s : State) : Outcome State Fault Refusal :=
  s.onReg true who addr size none

/-- REGISTER_WRITE: a write of any register under its access codes. -/
def execRegisterWrite (who : Requester) (addr size : Nat) (value : Word) (s : State) : Outcome State Fault Refusal :=
  s.onReg true who addr size (some value)

end Sys2Proof.Machine
end

