-- ==== Sys2Proof/Machine/Ports.lean ====
section
/-! DEFINITION. Host ports: the command queues and their commands (R353–R355, R465), the restart of a run from an export
(R339), the aperture (R344), device requests that end without data (R345), and resets of a port (R343, R346). -/

namespace Sys2Proof.Machine

open Host (Outcome)

/-! ### The queues (R353, R354, R465) -/

/-- Queue k has a command entry to serve and room for its completion. -/
def Port.ready (po : Port) (k : Nat) : Bool :=
  let q := po.qp k
  bit q.sqCfg 0 && bit q.cqCfg 0 && decide (q.sqHead ≠ q.tail.toNat) && !q.full

/-- The queue served next: one command per queue per turn, in ascending k; none while queue pair 0 is disabled. -/
def Port.served (po : Port) : Option Nat :=
  if !bit (po.qp 0).sqCfg 0 || !bit (po.qp 0).cqCfg 0 then none
  else ((List.range 8).map fun j => (po.nextSq + j) % 8).find? po.ready

/-- The front entry of queue k is consumed, and the turn passes on. -/
def Port.takeEntry (po : Port) (k : Nat) : Port :=
  let q := po.qp k
  { po.setQp k { q with sqHead := (q.sqHead + 1) % ringEntries q.sqCfg } with nextSq := (k + 1) % 8 }

/-- A read of a submission entry that faults: consumed, skipped and reported (R465). -/
def State.entryFault (s : State) (p k : Nat) : State :=
  let d := k + 16 + ((s.port p).qp k).sqHead * 65536
  ((s.portReport p (BitVec.ofNat 32 d)).modPort p fun po => po.takeEntry k).queueEvent p d

/-- Completes a command on its queue; a fault of the write drops the entry (R354, R465). -/
def State.complete (s : State) (p k cid status : Nat) (payload : List Byte) : State :=
  let (s1, r) := s.pushCompletion p k { cid, sq := k, event := false, coalesced := false, status, kind := 0
                                        step := (s.spine p).step, payload }
  if r = .faulted && k ≠ 0 then s1.queueEvent p (k + 32 + cid * 65536) else s1

/-- What a command answers: the state, and its status and payload unless it completes later. -/
structure Reply where
  s : State
  status : Option Nat := some 0
  payload : List Byte := []

/-- A command that its state does not permit, and one with an invalid operand (Table 6). -/
def State.notPermitted (s : State) : Reply := { s, status := some 0x8001 }
def State.invalid (s : State) : Reply := { s, status := some 0x8003 }

/-- A command of queue sq of port p: it is served when its turn has come and its entry holds its opcode. An opcode of
no command completes with 0x8002. -/
def State.command (s : State) (port sq opcode : Nat) (f : Nat → List Byte → State → Reply) :
    Outcome State Fault Refusal :=
  s.onUnit (decide (port < 8) && decide (sq < 8)) fun s =>
    let po := s.port port
    if (s.record port).isNone || po.served ≠ some sq then s
    else match s.hostRead port (ringAddr (po.qp sq).sqCfg (po.qp sq).sqHead) 64 with
    | none => s.entryFault port sq
    | some e =>
      let op := ofLe (slice e 0 1)
      let cid := ofLe (slice e 2 2)
      let s1 := s.modPort port fun po => po.takeEntry sq
      if op = 0 || 8 < op then s1.complete port sq cid 0x8002 []
      else if op ≠ opcode then s
      else
        let r := f cid (e.drop 8) s1
        match r.status with
        | none => r.s
        | some st => r.s.complete port sq cid st r.payload

/-- Operand number i of a command entry, 8 bytes. -/
def operand (l : List Byte) (i : Nat) : Nat := ofLe (slice l (8 * i) 8)

/-- LOAD_PLAN, RESUME and RESTART wait for no input and no open 1149.1 port (R371, R379). -/
def State.startBarred (s : State) : Bool := s.hm.jtagOpen || (s.hm.filter 2).active || (s.hm.filter 3).active

/-- Whether the host window permits reading a plan image. -/
def State.imageReadable (s : State) (p a n : Nat) : Bool :=
  decide (0 < n) && decide (a + n ≤ 2 ^ 52) && (s.resolveRange p a n false).isSome &&
  (match region a with | .window q => q = p | _ => false)

/-- A load that succeeded, with the ring record of window 0 (R335). -/
def State.loaded (s : State) (p : Nat) : State :=
  match (s.spine p).plan with
  | some pl => if pl.stream.hdr.window then s.ringAppend p pl 0 0 2 0 [] [] else s
  | none => s

/-- The image at an address of the host window (R67); none where the window does not permit reading it. -/
def State.readImage (s : State) (p a n : Nat) (places : ImagePlace) : Option PlanImage :=
  if s.imageReadable p a n then (s.hostRead p a n).map fun l => parseImage l places else none

/-- A command whose read of host memory is discarded reports it (R345). -/
def State.unread (s : State) (p a n : Nat) : Reply := (s.lost p a n).invalid

/-- A load that is rejected (R70). -/
def State.rejectLoad (s : State) (p : Nat) (im : PlanImage) (r : Reject) : Reply :=
  { s := (s.failedLoad p).recordReject p im.planId r, status := some r.reason }

/-- LOAD_PLAN (R69, R70). -/
def execLoadPlan (port sq : Nat) (places : ImagePlace) (s : State) : Outcome State Fault Refusal :=
  s.command port sq 0x01 fun _ l s =>
    if (s.spine port).st ≠ .idle || s.startBarred then s.notPermitted
    else match s.readImage port (operand l 0) (operand l 1) places with
    | none => s.unread port (operand l 0) (operand l 1)
    | some im => match loadPlan s port im .planStart with
      | (.error r, s1) => s1.rejectLoad port im r
      | (.ok _, s1) => { s := s1.loaded port }

/-- UNLOAD: a LOADED allotment stops first as under STOP. -/
def execUnload (port sq : Nat) (s : State) : Outcome State Fault Refusal :=
  s.command port sq 0x02 fun _ _ s => { s := ((s.stopLoaded port 0x18 0).unloadPlan port).settleLeak }

/-- STOP: the step is abandoned and the allotment stops at its last cut. -/
def execStop (port sq : Nat) (s : State) : Outcome State Fault Refusal :=
  s.command port sq 0x03 fun _ _ s =>
    if (s.spine port).st ≠ .loaded then s.notPermitted else { s := s.stopAllot port 0x18 0 }

/-- RESUME: replay, unless the stop reason was 0x0013 or 0x001D. A replay that stops again completes with its reason. -/
def execResume (port sq : Nat) (s : State) : Outcome State Fault Refusal :=
  s.command port sq 0x04 fun _ _ s =>
    let sp := s.spine port
    if sp.st ≠ .stopped || sp.stopReason = 0x13 || sp.stopReason = 0x1D || s.startBarred then s.notPermitted
    else
      let s1 := s.resumeReplay port
      { s := s1.settleLeak
        status := some (if (s1.spine port).st = .loaded then 0 else (s1.spine port).stopReason) }

/-- EXPORT: starts an export of the last consistent cut; EXPORT_END completes the command. -/
def execExportCut (port sq : Nat) (s : State) : Outcome State Fault Refusal :=
  s.command port sq 0x05 fun cid l s =>
    let g := (s.spine port).ingot
    if g.none_ || g.exporting || g.expCmd.isSome then s.notPermitted
    else
      let a := packFields [(51, 6, fld (BitVec.ofNat 64 (operand l 0)) 51 6)]
      let s1 := s.modSpine port fun sp => { sp with ingot := { sp.ingot with expAddr := a, expCmd := some (cid, sq) } }
      { s := s1.startExport port, status := none }

/-- WALL_MARK: every compute island of the allotment records the host time and its count (R394). -/
def execWallMark (port sq : Nat) (s : State) : Outcome State Fault Refusal :=
  s.command port sq 0x07 fun _ l s =>
    match s.record port with
    | none => s.notPermitted
    | some r => { s := forEach r.islands s fun s i =>
        s.modIsland i fun x => { x with wall0 := BitVec.ofNat 64 (operand l 0), wall1 := s.ticks - x.cntBase } }

/-- QUERY: state, layout, core count, last cut, INGOT_STAT. Without a plan no rule gives a layout: the byte is free. -/
def execQuery (port sq : Nat) (s : State) : Outcome State Fault Refusal :=
  s.command port sq 0x08 fun _ _ s =>
    let sp := s.spine port
    let (layout, cores, s1) := match sp.plan with
      | some pl => (pl.layout, pl.cores, s)
      | none => (s.freeWord.1.toNat, 0, s.freeWord.2)
    { s := s1
      payload := leBytes 1 sp.st.code ++ leBytes 1 layout ++ leBytes 2 cores ++ leBytes 8 sp.ingot.cutStep.toNat ++
        leBytes 8 sp.ingot.stat.toNat }

/-! ### RESTART (R339) -/

/-- The records of an export at a host-window address, up to the base copy (kind 5): an error where the window does not
permit a read, with its range, or where a checksum is wrong. Fuel bounds their number. -/
def parseExport (s : State) (p : Nat) : Nat → Nat → Except (Nat × Nat) (List ExpRec)
  | 0, a => .error (a, 0)
  | f + 1, a =>
    match s.hostRead p a 32 with
    | none => .error (a, 32)
    | some h =>
      let kind := ofLe (slice h 0 1)
      let len := ofLe (slice h 16 8)
      if 5 < kind || 2 ^ 52 < a + 32 + len then .error (a, 0)
      else match if len = 0 then some [] else s.hostRead p (a + 32) len with
      | none => .error (a + 32, len)
      | some d =>
        let r : ExpRec := { kind, index := ofLe (slice h 8 8), data := d }
        if crc32c d ≠ BitVec.ofNat 32 (ofLe (slice h 24 4)) then .error (a, 0)
        else if kind = 5 then .ok [r]
        else (parseExport s p f (a + 32 + len)).map (r :: ·)

/-- Most records an export of a plan may hold before its base copy. -/
def mostRecords (im : PlanImage) : Nat := im.sections.foldl (fun a x => a + match x.body with
  | .group g => 2 * g.updates.length
  | .mask m => m.works.length
  | _ => 0) 8

/-- Bytes of n PM32 groups at the start of a list. -/
def pm32Size (w : Nat) : Nat → List Byte → Nat
  | 0, _ => 0
  | n + 1, l =>
    let k := pm32Len w (ofLe (slice l 0 4))
    k + pm32Size w n (l.drop k)

/-- The base copy cut into the bytes of each frozen record. -/
def frozenParts : List (PAddr × Nat × Nat) → List Byte → List (PAddr × Nat × List Byte)
  | [], _ => []
  | f :: t, l => (f.1, f.2.2, l.take f.2.1) :: frozenParts t (l.drop f.2.1)

/-- Places one export record at the address the selected layout gives it, within the allotment (R28, R361). -/
def placeRecord (p : Nat) (r : AllotRec) (pl : Plan) (x : ExpRec) (s : State) : Except Unit Unit × State :=
  match x.kind, pl.updates[x.index]?, pl.works[x.index]?, pl.ckpt with
  | 1, some u, _, _ =>
    let n := regionLen pl u
    if u.tier3 then thenOk (storeOk p u.stateAddr (x.data.take n) s) (storeOk p u.parkAddr (x.data.drop n))
    else putOk p u.stateAddr x.data s
  | 2, _, some w, _ => storeOk p w.listAddr x.data s
  | 3, _, _, _ => eachOk (fun n s => putOk p (runtimeAddr (s.pkg n).grpBase 0) x.data s) r.pkgs s
  | 4, some u, _, _ =>
    let pm := pm32Size (fmtWidth u.fmt) 32 x.data
    (match restoreTile p pl u x.data pm (x.data.length - 1 - pm) s with
    | some s1 => (.ok (), s1)
    | none => (.error (), s))
  | 5, _, _, some ck => eachOk (fun f s => thenOk (putOk p f.2.1 f.2.2 s) (storeOk p (f.1.addr pl.sites) f.2.2))
      (frozenParts (frozenAddrs pl ck) x.data) s
  | _, _, _, _ => (.ok (), s)

/-- The run continues at the step after the export's cut, with the values of its header (R332, R339). -/
def continueAt (p : Nat) (hdr : List Byte) (s : State) : State :=
  let step : Word := BitVec.ofNat 64 (ofLe (slice hdr 8 8))
  let ls := signed 8 (ofLe (slice hdr 33 1))
  let fb : FMap Word := toMap ((List.range 4).map fun k => BitVec.ofNat 64 (ofLe (slice hdr (40 + 8 * k) 8)))
  let s1 := forEach (((s.record p).map fun r => r.islands.flatMap islandSites).getD []) s fun s x => s.modCore x fun c =>
    c.hears (lscaleWord ls step.toNat) step fb
  s1.modSpine p fun sp => { sp with
    step := step + 1, ls := BitVec.ofInt 8 ls, clean := BitVec.ofNat 16 (ofLe (slice hdr 34 2))
    lastVerdict := some step, boundaryOf := some step
    ingot := { sp.ingot with firstStep := step + 1 }
    ingest := { sp.ingest with
      step := step + 1, window := signed 64 (ofLe (slice hdr 72 8)), boundary := some step } }

/-- RESTART: loads a plan, places an export, and continues the run. A record whose place is not the allotment's rejects the
load, as a DATA write does (DESIGN CHOICE, log entry 79). -/
def execRestart (port sq : Nat) (places : ImagePlace) (s : State) : Outcome State Fault Refusal :=
  s.command port sq 0x06 fun _ l s =>
    if (s.spine port).st ≠ .idle || s.startBarred then s.notPermitted
    else match s.readImage port (operand l 0) (operand l 1) places with
    | none => s.unread port (operand l 0) (operand l 1)
    | some img =>
      match parseExport s port (mostRecords img) (operand l 2) with
      | .error x => s.unread port x.1 x.2
      | .ok recs =>
        let hdr := match recs with | x :: _ => x.data | [] => []
        if !(recs.head?.any fun x => x.kind = 0 && x.data.length = 128) then s.invalid
        else match loadPlan s port img (.replayStart (BitVec.ofNat 64 (ofLe (slice hdr 8 8)) + 1)) with
        | (.error r, s1) => s1.rejectLoad port img r
        | (.ok _, s1) =>
          match s1.record port, (s1.spine port).plan with
          | some r, some pl =>
            (match eachOk (placeRecord port r pl) recs s1 with
            | (.error _, s2) => (s2.unloadPlan port).rejectLoad port img (faultReject pl.layout)
            | (.ok _, s2) => { s := continueAt port hdr s2 })
          | _, _ => { s := s1 }

/-! ### The aperture (R344) and device requests (R345) -/

/-- HOST_APERTURE_ACCESS: reaches the allotment's stacked SRAM or LPDDR5X, or completes as Unsupported Request. A read
of poison completes with a poisoned TLP (R312). -/
def execHostApertureAccess (port offset length : Nat) (write : Option (List Byte)) (s : State) :
    Outcome State Fault Refusal :=
  s.onAllot port fun s =>
    match s.record port with
    | none => s
    | some r =>
      let n := match write with | some l => l.length | none => length
      let a := fld (s.port port).aptBase 51 12 * 4096 + offset
      let memory (x : Nat) : Bool := match region x with | .slice _ | .lpddr _ => true | _ => false
      if (s.port port).rate = 0 || n = 0 || (s.port port).discards (Config.ideInbound port 2 offset) then s
      else if 2 ^ r.apLog2 < offset + n || !memory a || !memory (a + n - 1) then s.aer port
      else match write with
      | some l => match s.store port a l with
        | some s1 => s1
        | none => s.aer port
      | none =>
        let (res, s1) := s.readCk port a n .clean
        match res with
        | .data _ => s1
        | .poison | .fault => s1.aer port

/-- The channel that the engine of an island serves, ready or running, with its channel state. -/
def Island.nextChan (x : Island) : Option Nat := (x.serve).map fun y => y.1

/-- The unit's side of a request that ended without data, or with poison: R269, R281, R312, R345, R465. A request that
is not outstanding, or does not go to the port's host memory, is not this command: none. -/
def State.requestEnds (s : State) (p : Nat) (poison : Bool) (req : HostReq) : Option State :=
  let inWin (a : Nat) : Bool := match region a with | .window q => q = p | _ => false
  match req with
  | .other => some (s.aer p)
  | .access site ctx sb =>
    match (s.core site).inflight.find? fun o => o.ctx = ctx && o.sb = sb with
    | some o =>
      if s.allotOfSite site = some p && o.reads.any fun r => inWin r.1 then
        some (((s.aer p).retireOp site o).lateFault site o (if poison then 0x08 else 0x01))
      else none
    | none => none
  | .stream site queue =>
    let q := (s.core site).queue queue
    match q.ring.find? (fun e => e.st = .fetching), q.reqs.find? (fun r => r.present < r.count) with
    | some e, some r =>
      if s.allotOfSite site = some p && inWin e.src then
        some ((s.aer p).abortTask site r.task 0x07 r.ctx r.pc)
      else none
    | _, _ => none
  | .loadPath site =>
    match (s.core site).loadPath with
    | o :: _ => match o.kind with
      | .weights b src =>
        if s.allotOfSite site = some p && (tileRanges src.desc src.tile).any fun r => inWin r.1 then
          if tilePending s p src.desc src.tile ((s.core site).run o.task).step then none
          else some (((s.aer p).modCore site fun c => c.setBank b {}).abortLoad site o (if poison then 0x08 else 0x01))
        else none
      | _ => none
    | [] => none
  | .dma i =>
    match (s.island i).serve with
    | some (n, x) =>
      let next := (x.chan n).next
      let a := (setFld next 5 0 0).toNat
      let code := if poison then 2 else 1
      if s.allotOfIsland i ≠ some p then none
      else if inWin a then some (((s.aer p).setIsland i x).faultChain i n next)
      else match dmaRead s p a 64 .clean with
      | (.ok l, s1) =>
        let d := DmaDesc.ofBytes l
        if d.own && inWin d.src.toNat then
          let s2 := writeBack ((s1.aer p).setIsland i x) p a d { s := s1, code := code }
          some ((s2.modIsland i fun x => x.ft5 n code).faultChain i n next)
        else none
      | _ => none
    | none => none
  | .ingest => if liveIngest s p then some (s.ingFaulted p) else none
  | .submission k => if (s.port p).served = some k then some (s.entryFault p k) else none

/-- HOST_REQUEST_FAULT: a completion timeout, an error completion, a TLP discarded by an Insecure IDE stream, or a
poisoned completion (R345). -/
def execHostRequestFault (port : Nat) (req : HostReq) (kind : HostFault) (s : State) : Outcome State Fault Refusal :=
  s.onAllot port fun s =>
    if (s.record port).isNone || (kind = .ideDiscarded && (s.port port).ideInsecure = 0) then s
    else (s.requestEnds port (decide (kind = .poisoned)) req).getD s

/-- IDE_STREAM_INSECURE: a selective stream fails its integrity check; its TLPs, device and host requests alike, are
discarded until it is re-keyed. AER records the failure. -/
def execIdeStreamInsecure (port stream : Nat) (s : State) : Outcome State Fault Refusal :=
  s.onUnit (decide (port < 8) && decide (stream < 2)) fun s =>
    (s.aer port).modPort port fun po => { po with ideInsecure := setFld po.ideInsecure stream stream 1 }

/-! ### The function of a port and its application cores' interrupts (R343, R16, R359) -/

/-- The features of Table 1 that a function's capability list names. -/
inductive PcieCap where
  | powerManagement
  | msix
  | dataObjectExchange
  | integrityEncryption
  | errorReporting
  | functionLevelReset
  deriving DecidableEq, Repr

/-- What a port's function shows of itself and the limits it keeps. -/
structure PcieFunction where
  deviceId : BitVec 16 := 0x0F09
  classCode : BitVec 24 := 0x120000
  revisionId : Byte := BitVec.ofNat 8 (fld devRev 23 20 * 16 + fld devRev 19 16)
  capabilities : List PcieCap :=
    [.powerManagement, .msix, .dataObjectExchange, .integrityEncryption, .errorReporting, .functionLevelReset]
  maxPayload : Nat := 512
  maxReadRequest : Nat := 4096
  tagBits : Nat
  outstanding : Nat := 1024
  msixVectors : Nat := 2048
  ideStreams : Nat := 2
  deriving DecidableEq, Repr

/-- The function of a port: its tags have 14 bits in flit mode and 10 otherwise. -/
def Port.function (po : Port) : PcieFunction := { tagBits := if po.flit then 14 else 10 }

/-- A source of interrupts of an allotment: a doorbell, an island's FT5 channel, or its mailbox partition. -/
inductive IrqSource where
  | doorbell (k : Nat)
  | ft5 (island ch : Nat)
  | mailbox
  deriving DecidableEq, Repr

/-- The interrupts an application core of the complex receives: those of the allotment whose record names it. -/
def State.appInterrupts (s : State) (core : Nat) : List IrqSource :=
  (List.range 8).flatMap fun p => match s.record p with
    | none => []
    | some r =>
      if !r.appCores.getLsbD core then []
      else
        (((List.range 8).filter fun k => decide (((s.port p).qp k).sqHead ≠ ((s.port p).qp k).tail.toNat)).map .doorbell) ++
        (r.islands.flatMap fun i => ((List.range 32).filter fun ch => (s.island i).ft5Lines.getLsbD ch).map (.ft5 i)) ++
        (if (s.hm.mailbox p).done then [.mailbox] else [])

/-! ### Resets of a port and link training (R343, R346) -/

/-- Stops and unloads the port's allotment with reason 0x0017 and clears the port's function. A command that waits
for an export is lost with its queue. -/
def State.portReset (s : State) (p detail : Nat) (f : Port → Port) : State :=
  let s1 := s.stopLoaded p 0x17 detail
  let s2 := if (s1.spine p).st = .unbound then s1 else (s1.unloadPlan p).settleLeak
  (s2.modSpine p fun sp => { sp with ingot := { sp.ingot with expCmd := none } }).modPort p f

def execFunctionLevelReset (port : Nat) (s : State) : Outcome State Fault Refusal :=
  s.onAllot port fun s => s.portReset port 0 fun po => { po.cleared with d3hot := false }

def execHotReset (port : Nat) (s : State) : Outcome State Fault Refusal :=
  s.onAllot port fun s => s.portReset port 1 Port.down

/-- LINK_DOWN: the link of a trained port goes down; a fall of PERST_N is one such event, and its level holds the link
in Detect from then on (R346, R450). -/
def execLinkDown (fall : LinkFall) (s : State) : Outcome State Fault Refusal :=
  s.onAllot fall.port fun s =>
    let s1 := if (s.port fall.port).rate = 0 then s else s.portReset fall.port 2 Port.down
    if fall.perst then s1.modPort fall.port fun po => { po with perstLow := true } else s1

def execD3hotEntry (port : Nat) (s : State) : Outcome State Fault Refusal :=
  s.onAllot port fun s => s.portReset port 3 fun po => { po.cleared with d3hot := true }

/-- LINK_TRAINING: a port with a valid record trains at ×8 or ×16, above 32 GT/s in flit mode only, and by the alternate
method of step 0x13 up to 64 GT/s; ×4 or narrower is held in Detect and reported. A port whose step 0x13 has not passed,
or whose PERST_N is low, holds its link in Detect (R343, R415, R418, R450). -/
def execLinkTraining (port width rate : Nat) (partner : LinkPartner) (s : State) : Outcome State Fault Refusal :=
  s.onAllot port fun s =>
    let s := s.modPort port fun po => { po with perstLow := partner.perstLow }
    let flit := partner.flit
    if (s.record port).isNone || (s.port port).held || partner.perstLow || ((s.port port).slow && 3 < rate) then s
    else if width ≤ 4 then
      (s.aer port).modPort port fun po => { po with rate := 0, width := 0, flit := false }
    else if !(width = 8 || width = 16) || rate = 0 || 4 < rate || (2 < rate && !flit) then s
    else s.modPort port fun po =>
      { po with rate := BitVec.ofNat 4 rate, width := BitVec.ofNat 8 width, flit := flit, d3hot := false }

end Sys2Proof.Machine
end

