-- ==== Sys2Proof/Machine/Scalar.lean ====
section
/-! DEFINITION. The scalar class (R300–R302), apart from sc.csr, which reads registers. -/

namespace Sys2Proof.Machine

open Host (Outcome)

/-- Operand b (R300): rb, or the sign-extended immediate. -/
def scalarB (o : FS) (t : Thread) : Word := if o.ib = 1 then o.imm.signExtend 64 else t.reg o.rb.toNat

/-- Registers a three-operand scalar instruction reads or writes. -/
def scalarRegs (o : FS) : List Nat := [o.rd.toNat, o.ra.toNat, o.rb.toNat]

/-- rd := f(ra, b), with no flag. -/
def scalarAlu (x : Instr) (i : Issue) (o : FS) (f : Word → Word → Word) (s : State) : Outcome State Fault Refusal :=
  issue x i (scalarRegs o)
    (fun k s => .next (s.modThread k fun t => t.setReg o.rd.toNat (f (k.t.reg o.ra.toNat) (scalarB o k.t)))) s

/-- pd := relation(ra, b); pd is rd bits 2:0. -/
def scalarCmp (x : Instr) (i : Issue) (o : FS) (f : Word → Word → Bool) (s : State) : Outcome State Fault Refusal :=
  issue x i [o.ra.toNat, o.rb.toNat]
    (fun k s => .next (s.modThread k fun t => t.setPred (o.rd.toNat % 8) (f (k.t.reg o.ra.toNat) (scalarB o k.t)))) s

/-! ### Arithmetic and logic -/

/-- sc.add: ra + b, modulo 2^64. -/
def execScAdd (i : Issue) (o : FS) (s : State) : Outcome State Fault Refusal :=
  scalarAlu (.scAdd i o) i o (fun a b => a + b) s

/-- sc.sub: ra − b, modulo 2^64. -/
def execScSub (i : Issue) (o : FS) (s : State) : Outcome State Fault Refusal :=
  scalarAlu (.scSub i o) i o (fun a b => a - b) s

/-- sc.mul: the low 64 bits of ra × b. -/
def execScMul (i : Issue) (o : FS) (s : State) : Outcome State Fault Refusal :=
  scalarAlu (.scMul i o) i o (fun a b => a * b) s

/-- sc.and: bitwise and. -/
def execScAnd (i : Issue) (o : FS) (s : State) : Outcome State Fault Refusal :=
  scalarAlu (.scAnd i o) i o (fun a b => a &&& b) s

/-- sc.or: bitwise or. -/
def execScOr (i : Issue) (o : FS) (s : State) : Outcome State Fault Refusal :=
  scalarAlu (.scOr i o) i o (fun a b => a ||| b) s

/-- sc.xor: bitwise exclusive or. -/
def execScXor (i : Issue) (o : FS) (s : State) : Outcome State Fault Refusal :=
  scalarAlu (.scXor i o) i o (fun a b => a ^^^ b) s

/-- sc.shl: ra shifted left by b mod 64. -/
def execScShl (i : Issue) (o : FS) (s : State) : Outcome State Fault Refusal :=
  scalarAlu (.scShl i o) i o (fun a b => a <<< (b.toNat % 64)) s

/-- sc.shr: ra shifted right arithmetically by b mod 64. -/
def execScShr (i : Issue) (o : FS) (s : State) : Outcome State Fault Refusal :=
  scalarAlu (.scShr i o) i o (fun a b => a.sshiftRight (b.toNat % 64)) s

/-- sc.shru: ra shifted right logically by b mod 64. -/
def execScShru (i : Issue) (o : FS) (s : State) : Outcome State Fault Refusal :=
  scalarAlu (.scShru i o) i o (fun a b => a >>> (b.toNat % 64)) s

/-- sc.min: the signed minimum. -/
def execScMin (i : Issue) (o : FS) (s : State) : Outcome State Fault Refusal :=
  scalarAlu (.scMin i o) i o (fun a b => if a.slt b then a else b) s

/-- sc.max: the signed maximum. -/
def execScMax (i : Issue) (o : FS) (s : State) : Outcome State Fault Refusal :=
  scalarAlu (.scMax i o) i o (fun a b => if a.slt b then b else a) s

/-- sc.minu: the unsigned minimum. -/
def execScMinu (i : Issue) (o : FS) (s : State) : Outcome State Fault Refusal :=
  scalarAlu (.scMinu i o) i o (fun a b => if a.ult b then a else b) s

/-- sc.maxu: the unsigned maximum. -/
def execScMaxu (i : Issue) (o : FS) (s : State) : Outcome State Fault Refusal :=
  scalarAlu (.scMaxu i o) i o (fun a b => if a.ult b then b else a) s

/-- sc.li: rd := sext(imm). -/
def execScLi (i : Issue) (o : FS) (s : State) : Outcome State Fault Refusal :=
  scalarAlu (.scLi i o) i o (fun _ b => b) s

/-- sc.sli: rd := (ra << 26) | zext(imm). -/
def execScSli (i : Issue) (o : FS) (s : State) : Outcome State Fault Refusal :=
  scalarAlu (.scSli i o) i o (fun a _ => (a <<< 26) ||| o.imm.setWidth 64) s

/-! ### Compares and predicates -/

/-- sc.ceq: pd := ra = b. -/
def execScCeq (i : Issue) (o : FS) (s : State) : Outcome State Fault Refusal :=
  scalarCmp (.scCeq i o) i o (fun a b => decide (a = b)) s

/-- sc.cne: pd := ra ≠ b. -/
def execScCne (i : Issue) (o : FS) (s : State) : Outcome State Fault Refusal :=
  scalarCmp (.scCne i o) i o (fun a b => decide (a ≠ b)) s

/-- sc.clt: pd := ra < b, signed. -/
def execScClt (i : Issue) (o : FS) (s : State) : Outcome State Fault Refusal :=
  scalarCmp (.scClt i o) i o (fun a b => a.slt b) s

/-- sc.cle: pd := ra ≤ b, signed. -/
def execScCle (i : Issue) (o : FS) (s : State) : Outcome State Fault Refusal :=
  scalarCmp (.scCle i o) i o (fun a b => a.sle b) s

/-- sc.cltu: pd := ra < b, unsigned. -/
def execScCltu (i : Issue) (o : FS) (s : State) : Outcome State Fault Refusal :=
  scalarCmp (.scCltu i o) i o (fun a b => a.ult b) s

/-- sc.cleu: pd := ra ≤ b, unsigned. -/
def execScCleu (i : Issue) (o : FS) (s : State) : Outcome State Fault Refusal :=
  scalarCmp (.scCleu i o) i o (fun a b => a.ule b) s

/-- sc.pset: pd := bit (2 × pa + pb) of fn. -/
def execScPset (i : Issue) (o : FS) (s : State) : Outcome State Fault Refusal :=
  issue (.scPset i o) i []
    (fun k s =>
      let pa := b2n (k.t.pred (o.ra.toNat % 8))
      let pb := b2n (k.t.pred (o.rb.toNat % 8))
      .next (s.modThread k fun t => t.setPred (o.rd.toNat % 8) (o.imm.getLsbD (2 * pa + pb)))) s

/-! ### Loads and stores -/

/-- The address of a scalar access (R292, R300, R301), or none where it faults: ra, whose bits 63:52 are 0, plus imm, in
bits 51:0, aligned, below the register space, in memory the allotment reaches. -/
def scalarAddr (o : FS) (k : Offer) (s : State) (bytes : Nat) (wr : Bool) : Option Nat :=
  match regAddr (k.t.reg o.ra.toNat), regAddr (k.t.reg o.ra.toNat + o.imm.signExtend 64) with
  | none, _ | _, none => none
  | some _, some a =>
    if a % bytes ≠ 0 || 0xF00000000000 ≤ a || (s.resolveRange k.allot a bytes wr).isNone then none else some a

/-- A scalar load of 4 or 8 bytes into rd. -/
def scalarLoad (x : Instr) (i : Issue) (o : FS) (w32 : Bool) (s : State) : Outcome State Fault Refusal :=
  issue x i (scalarRegs o)
    (fun k s => match scalarAddr o k s (if w32 then 4 else 8) false with
      | none => .abort 0x01
      | some a => .next (s.launch k i.sb false (.load o.rd.toNat a w32))) s

/-- A scalar store of the low 4 or 8 bytes of rb. -/
def scalarStore (x : Instr) (i : Issue) (o : FS) (bytes : Nat) (s : State) : Outcome State Fault Refusal :=
  issue x i (scalarRegs o)
    (fun k s => match scalarAddr o k s bytes true with
      | none => .abort 0x01
      | some a => .next (s.launch k i.sb true (.store a (leBytes bytes (k.t.reg o.rb.toNat).toNat)))) s

/-- sc.ld: a 64-bit load. -/
def execScLd (i : Issue) (o : FS) (s : State) : Outcome State Fault Refusal := scalarLoad (.scLd i o) i o false s

/-- sc.ldw: a 32-bit load, zero-extended. -/
def execScLdw (i : Issue) (o : FS) (s : State) : Outcome State Fault Refusal := scalarLoad (.scLdw i o) i o true s

/-- sc.st: a 64-bit store. -/
def execScSt (i : Issue) (o : FS) (s : State) : Outcome State Fault Refusal := scalarStore (.scSt i o) i o 8 s

/-- sc.stw: a 32-bit store. -/
def execScStw (i : Issue) (o : FS) (s : State) : Outcome State Fault Refusal := scalarStore (.scStw i o) i o 4 s

/-! ### Flags -/

/-- Whether an earlier flag-setting instruction of a context has not completed (R302). -/
def Core.flagsPending (c : Core) (ctx : Nat) : Bool :=
  (c.vArith.any fun v => v.ctx = ctx) ||
  (c.inflight.any fun o => o.ctx = ctx && match o.kind with | .vmem _ => true | _ => false)

/-- rd := the flag word; f is what becomes of the flags. -/
def scalarFlags (x : Instr) (i : Issue) (o : FS) (f : BitVec 5 → BitVec 5) (s : State) :
    Outcome State Fault Refusal :=
  issue x i [o.rd.toNat]
    (fun k s =>
      if (s.core k.site).flagsPending k.ctx then .stall
      else .next (s.modThread k fun t =>
        { t.setReg o.rd.toNat (t.flags.setWidth 64) with flags := f t.flags })) s

/-- sc.flg: reads the flag word. -/
def execScFlg (i : Issue) (o : FS) (s : State) : Outcome State Fault Refusal := scalarFlags (.scFlg i o) i o id s

/-- sc.flgc: reads the flag word and clears every flag. -/
def execScFlgc (i : Issue) (o : FS) (s : State) : Outcome State Fault Refusal :=
  scalarFlags (.scFlgc i o) i o (fun _ => 0) s

end Sys2Proof.Machine
end

