-- ==== Sys2Proof/Machine/Dispatch.lean ====
section
/-! DEFINITION. The one dispatch from a command to its meaning. -/

namespace Sys2Proof.Machine

def exec (i : Instr) (s : State) : Host.Outcome State Fault Refusal :=
  match i with
  | .ctlNop w o => Sys2Proof.Machine.execCtlNop w o s
  | .ctlHalt w o => Sys2Proof.Machine.execCtlHalt w o s
  | .ctlBr w o => Sys2Proof.Machine.execCtlBr w o s
  | .ctlJal w o => Sys2Proof.Machine.execCtlJal w o s
  | .ctlJr w o => Sys2Proof.Machine.execCtlJr w o s
  | .ctlWhl w o => Sys2Proof.Machine.execCtlWhl w o s
  | .ctlBar w o => Sys2Proof.Machine.execCtlBar w o s
  | .ctlSig w o => Sys2Proof.Machine.execCtlSig w o s
  | .ctlSwt w o => Sys2Proof.Machine.execCtlSwt w o s
  | .scAdd w o => Sys2Proof.Machine.execScAdd w o s
  | .scSub w o => Sys2Proof.Machine.execScSub w o s
  | .scMul w o => Sys2Proof.Machine.execScMul w o s
  | .scAnd w o => Sys2Proof.Machine.execScAnd w o s
  | .scOr w o => Sys2Proof.Machine.execScOr w o s
  | .scXor w o => Sys2Proof.Machine.execScXor w o s
  | .scShl w o => Sys2Proof.Machine.execScShl w o s
  | .scShr w o => Sys2Proof.Machine.execScShr w o s
  | .scShru w o => Sys2Proof.Machine.execScShru w o s
  | .scMin w o => Sys2Proof.Machine.execScMin w o s
  | .scMax w o => Sys2Proof.Machine.execScMax w o s
  | .scMinu w o => Sys2Proof.Machine.execScMinu w o s
  | .scMaxu w o => Sys2Proof.Machine.execScMaxu w o s
  | .scLi w o => Sys2Proof.Machine.execScLi w o s
  | .scSli w o => Sys2Proof.Machine.execScSli w o s
  | .scCeq w o => Sys2Proof.Machine.execScCeq w o s
  | .scCne w o => Sys2Proof.Machine.execScCne w o s
  | .scClt w o => Sys2Proof.Machine.execScClt w o s
  | .scCle w o => Sys2Proof.Machine.execScCle w o s
  | .scCltu w o => Sys2Proof.Machine.execScCltu w o s
  | .scCleu w o => Sys2Proof.Machine.execScCleu w o s
  | .scPset w o => Sys2Proof.Machine.execScPset w o s
  | .scLd w o => Sys2Proof.Machine.execScLd w o s
  | .scLdw w o => Sys2Proof.Machine.execScLdw w o s
  | .scSt w o => Sys2Proof.Machine.execScSt w o s
  | .scStw w o => Sys2Proof.Machine.execScStw w o s
  | .scFlg w o => Sys2Proof.Machine.execScFlg w o s
  | .scFlgc w o => Sys2Proof.Machine.execScFlgc w o s
  | .scCsr w o => Sys2Proof.Machine.execScCsr w o s
  | .vAdd w o => Sys2Proof.Machine.execVAdd w o s
  | .vSub w o => Sys2Proof.Machine.execVSub w o s
  | .vMul w o => Sys2Proof.Machine.execVMul w o s
  | .vFma w o => Sys2Proof.Machine.execVFma w o s
  | .vMax w o => Sys2Proof.Machine.execVMax w o s
  | .vMin w o => Sys2Proof.Machine.execVMin w o s
  | .vAbs w o => Sys2Proof.Machine.execVAbs w o s
  | .vNeg w o => Sys2Proof.Machine.execVNeg w o s
  | .vDiv w o => Sys2Proof.Machine.execVDiv w o s
  | .vSqrt w o => Sys2Proof.Machine.execVSqrt w o s
  | .vExp2 w o => Sys2Proof.Machine.execVExp2 w o s
  | .vLog2 w o => Sys2Proof.Machine.execVLog2 w o s
  | .vIadd w o => Sys2Proof.Machine.execVIadd w o s
  | .vIsub w o => Sys2Proof.Machine.execVIsub w o s
  | .vImul w o => Sys2Proof.Machine.execVImul w o s
  | .vAnd w o => Sys2Proof.Machine.execVAnd w o s
  | .vOr w o => Sys2Proof.Machine.execVOr w o s
  | .vXor w o => Sys2Proof.Machine.execVXor w o s
  | .vShl w o => Sys2Proof.Machine.execVShl w o s
  | .vShr w o => Sys2Proof.Machine.execVShr w o s
  | .vShru w o => Sys2Proof.Machine.execVShru w o s
  | .vCvt w o => Sys2Proof.Machine.execVCvt w o s
  | .vCeq w o => Sys2Proof.Machine.execVCeq w o s
  | .vCne w o => Sys2Proof.Machine.execVCne w o s
  | .vClt w o => Sys2Proof.Machine.execVClt w o s
  | .vCle w o => Sys2Proof.Machine.execVCle w o s
  | .vCgt w o => Sys2Proof.Machine.execVCgt w o s
  | .vCge w o => Sys2Proof.Machine.execVCge w o s
  | .vCun w o => Sys2Proof.Machine.execVCun w o s
  | .vSel w o => Sys2Proof.Machine.execVSel w o s
  | .vPack w o => Sys2Proof.Machine.execVPack w o s
  | .vUnpk w o => Sys2Proof.Machine.execVUnpk w o s
  | .vPerm w o => Sys2Proof.Machine.execVPerm w o s
  | .vBcast w o => Sys2Proof.Machine.execVBcast w o s
  | .vTr32 w o => Sys2Proof.Machine.execVTr32 w o s
  | .vIns w o => Sys2Proof.Machine.execVIns w o s
  | .vLd w o => Sys2Proof.Machine.execVLd w o s
  | .vSt w o => Sys2Proof.Machine.execVSt w o s
  | .vGth w o => Sys2Proof.Machine.execVGth w o s
  | .vSct w o => Sys2Proof.Machine.execVSct w o s
  | .vSadd w o => Sys2Proof.Machine.execVSadd w o s
  | .vSum w o => Sys2Proof.Machine.execVSum w o s
  | .vSsq w o => Sys2Proof.Machine.execVSsq w o s
  | .vDot w o => Sys2Proof.Machine.execVDot w o s
  | .vRmax w o => Sys2Proof.Machine.execVRmax w o s
  | .vRmin w o => Sys2Proof.Machine.execVRmin w o s
  | .vMv w o => Sys2Proof.Machine.execVMv w o s
  | .vCnt w o => Sys2Proof.Machine.execVCnt w o s
  | .vExt w o => Sys2Proof.Machine.execVExt w o s
  | .mxLdw w o => Sys2Proof.Machine.execMxLdw w o s
  | .mxPre w o => Sys2Proof.Machine.execMxPre w o s
  | .mxMul w o => Sys2Proof.Machine.execMxMul w o s
  | .mxDrn w o => Sys2Proof.Machine.execMxDrn w o s
  | .spPrd w o => Sys2Proof.Machine.execSpPrd w o s
  | .mkCap w o => Sys2Proof.Machine.execMkCap w o s
  | .stReq w o => Sys2Proof.Machine.execStReq w o s
  | .stPop w o => Sys2Proof.Machine.execStPop w o s
  | .stRel w o => Sys2Proof.Machine.execStRel w o s
  | .dmGo w o => Sys2Proof.Machine.execDmGo w o s
  | .dmStop w o => Sys2Proof.Machine.execDmStop w o s
  | .upAcc w o => Sys2Proof.Machine.execUpAcc w o s
  | .upFin w o => Sys2Proof.Machine.execUpFin w o s
  | .rnDrop w o => Sys2Proof.Machine.execRnDrop w o s
  | .rnWord w o => Sys2Proof.Machine.execRnWord w o s
  | .pwRamp w o => Sys2Proof.Machine.execPwRamp w o s
  | .pwBsel w o => Sys2Proof.Machine.execPwBsel w o s
  | .taskStart site => Sys2Proof.Machine.execTaskStart site s
  | .triggerFire site task => Sys2Proof.Machine.execTriggerFire site task s
  | .wheelWatchdog site => Sys2Proof.Machine.execWheelWatchdog site s
  | .signalDelivery index => Sys2Proof.Machine.execSignalDelivery index s
  | .memoryAccessComplete site ctx sb check => Sys2Proof.Machine.execMemoryAccessComplete site ctx sb check s
  | .tileLoadComplete site check => Sys2Proof.Machine.execTileLoadComplete site check s
  | .drainStart site tile => Sys2Proof.Machine.execDrainStart site tile s
  | .overflowReplay site tile => Sys2Proof.Machine.execOverflowReplay site tile s
  | .drainComplete site tile => Sys2Proof.Machine.execDrainComplete site tile s
  | .predictedTileOpen site tile => Sys2Proof.Machine.execPredictedTileOpen site tile s
  | .streamEntryFetch turn => Sys2Proof.Machine.execStreamEntryFetch turn s
  | .streamEntryPresent site queue check => Sys2Proof.Machine.execStreamEntryPresent site queue check s
  | .vectorComplete site => Sys2Proof.Machine.execVectorComplete site s
  | .dmaDescriptor island check => Sys2Proof.Machine.execDmaDescriptor island check s
  | .dmaChGo who island ch => Sys2Proof.Machine.execDmaChGo who island ch s
  | .dmaChStop who island ch => Sys2Proof.Machine.execDmaChStop who island ch s
  | .upAccApply site ctx sb check => Sys2Proof.Machine.execUpAccApply site ctx sb check s
  | .reductionReport allot index => Sys2Proof.Machine.execReductionReport allot index s
  | .endOfReductionMark allot index => Sys2Proof.Machine.execEndOfReductionMark allot index s
  | .verdict allot => Sys2Proof.Machine.execVerdict allot s
  | .planisherTileUpdate pkg check => Sys2Proof.Machine.execPlanisherTileUpdate pkg check s
  | .clearPass pkg => Sys2Proof.Machine.execClearPass pkg s
  | .trustRatio allot => Sys2Proof.Machine.execTrustRatio allot s
  | .planisherUpdateCompletion pkg => Sys2Proof.Machine.execPlanisherUpdateCompletion pkg s
  | .captureComplete island check => Sys2Proof.Machine.execCaptureComplete island check s
  | .vetchTileEvolve island check => Sys2Proof.Machine.execVetchTileEvolve island check s
  | .changeList pkg check => Sys2Proof.Machine.execChangeList pkg check s
  | .vetchTileWrite island => Sys2Proof.Machine.execVetchTileWrite island s
  | .stepBoundary allot => Sys2Proof.Machine.execStepBoundary allot s
  | .cutConsistent allot => Sys2Proof.Machine.execCutConsistent allot s
  | .pageUndoCopy allot page => Sys2Proof.Machine.execPageUndoCopy allot page s
  | .plannedFence site => Sys2Proof.Machine.execPlannedFence site s
  | .replayStartMark island => Sys2Proof.Machine.execReplayStartMark island s
  | .planStartMark island => Sys2Proof.Machine.execPlanStartMark island s
  | .stepMark island => Sys2Proof.Machine.execStepMark island s
  | .boundaryMark island => Sys2Proof.Machine.execBoundaryMark island s
  | .phaseTimeRecordWrite unit phase => Sys2Proof.Machine.execPhaseTimeRecordWrite unit phase s
  | .ingestRecord port => Sys2Proof.Machine.execIngestRecord port s
  | .closeRecord port => Sys2Proof.Machine.execCloseRecord port s
  | .ingProdWrite who port value => Sys2Proof.Machine.execIngProdWrite who port value s
  | .ingCfgWrite who port size half value => Sys2Proof.Machine.execIngCfgWrite who port size half value s
  | .sqTailDoorbell who port k size half value => Sys2Proof.Machine.execSqTailDoorbell who port k size half value s
  | .cqHeadWrite who port k size half value => Sys2Proof.Machine.execCqHeadWrite who port k size half value s
  | .loadPlan port sq places => Sys2Proof.Machine.execLoadPlan port sq places s
  | .unload port sq => Sys2Proof.Machine.execUnload port sq s
  | .stop port sq => Sys2Proof.Machine.execStop port sq s
  | .resume port sq => Sys2Proof.Machine.execResume port sq s
  | .exportCut port sq => Sys2Proof.Machine.execExportCut port sq s
  | .restart port sq places => Sys2Proof.Machine.execRestart port sq places s
  | .wallMark port sq => Sys2Proof.Machine.execWallMark port sq s
  | .query port sq => Sys2Proof.Machine.execQuery port sq s
  | .ingotExpGo who allot size half value => Sys2Proof.Machine.execIngotExpGo who allot size half value s
  | .exportEnd allot => Sys2Proof.Machine.execExportEnd allot s
  | .validatorRequest who allot size half value => Sys2Proof.Machine.execValidatorRequest who allot size half value s
  | .loaderAliasWrite who addr size value => Sys2Proof.Machine.execLoaderAliasWrite who addr size value s
  | .tableWindowWrite who addr size value => Sys2Proof.Machine.execTableWindowWrite who addr size value s
  | .rcRegisterRead who addr size => Sys2Proof.Machine.execRcRegisterRead who addr size s
  | .registerWrite who addr size value => Sys2Proof.Machine.execRegisterWrite who addr size value s
  | .mbxWdogWrite who allot size half value => Sys2Proof.Machine.execMbxWdogWrite who allot size half value s
  | .osWatchdogExpiry allot => Sys2Proof.Machine.execOsWatchdogExpiry allot s
  | .hostApertureAccess port offset length write => Sys2Proof.Machine.execHostApertureAccess port offset length write s
  | .hostRequestFault port req kind => Sys2Proof.Machine.execHostRequestFault port req kind s
  | .ideStreamInsecure port stream => Sys2Proof.Machine.execIdeStreamInsecure port stream s
  | .functionLevelReset port => Sys2Proof.Machine.execFunctionLevelReset port s
  | .hotReset port => Sys2Proof.Machine.execHotReset port s
  | .linkDown fall => Sys2Proof.Machine.execLinkDown fall s
  | .d3hotEntry port => Sys2Proof.Machine.execD3hotEntry port s
  | .doeSpdmMessage port req => Sys2Proof.Machine.execDoeSpdmMessage port req s
  | .networkFrame f => Sys2Proof.Machine.execNetworkFrame f s
  | .ident h => Sys2Proof.Machine.execIdent h s
  | .getNonce h slot => Sys2Proof.Machine.execGetNonce h slot s
  | .readSensors h first count => Sys2Proof.Machine.execReadSensors h first count s
  | .readLog h seq count => Sys2Proof.Machine.execReadLog h seq count s
  | .alertClear h => Sys2Proof.Machine.execAlertClear h s
  | .getAllot h => Sys2Proof.Machine.execGetAllot h s
  | .setAllot h table => Sys2Proof.Machine.execSetAllot h table s
  | .checkpoint h => Sys2Proof.Machine.execCheckpoint h s
  | .fence h => Sys2Proof.Machine.execFence h s
  | .setEnvelope h slew floor => Sys2Proof.Machine.execSetEnvelope h slew floor s
  | .setFilter h n par => Sys2Proof.Machine.execSetFilter h n par s
  | .setNet h net => Sys2Proof.Machine.execSetNet h net s
  | .setThresh h id warn => Sys2Proof.Machine.execSetThresh h id warn s
  | .fwStage h offset data => Sys2Proof.Machine.execFwStage h offset data s
  | .fwVerify h body => Sys2Proof.Machine.execFwVerify h body s
  | .fwActivate h => Sys2Proof.Machine.execFwActivate h s
  | .fwSelfTestResult passed => Sys2Proof.Machine.execFwSelfTestResult passed s
  | .fwSvnCommit h => Sys2Proof.Machine.execFwSvnCommit h s
  | .keySet h slot role key => Sys2Proof.Machine.execKeySet h slot role key s
  | .keyRevoke h slot => Sys2Proof.Machine.execKeyRevoke h slot s
  | .spdm h req => Sys2Proof.Machine.execSpdm h req s
  | .jtagUnlock h claim sig => Sys2Proof.Machine.execJtagUnlock h claim sig s
  | .moduleReset h report => Sys2Proof.Machine.execModuleReset h report s
  | .computeReset h report => Sys2Proof.Machine.execComputeReset h report s
  | .hallmarkReset h report => Sys2Proof.Machine.execHallmarkReset h report s
  | .hallmarkWatchdogExpiry report => Sys2Proof.Machine.execHallmarkWatchdogExpiry report s
  | .journalRestart report => Sys2Proof.Machine.execJournalRestart report s
  | .startupStepLimit step unit report => Sys2Proof.Machine.execStartupStepLimit step unit report s
  | .inputFilterEnter n => Sys2Proof.Machine.execInputFilterEnter n s
  | .inputFilterLeave n => Sys2Proof.Machine.execInputFilterLeave n s
  | .inputHeldAlert n => Sys2Proof.Machine.execInputHeldAlert n s
  | .flowWindow window => Sys2Proof.Machine.execFlowWindow window s
  | .sensorSample id reading => Sys2Proof.Machine.execSensorSample id reading s
  | .throttleStepUp island => Sys2Proof.Machine.execThrottleStepUp island s
  | .clockStepSwitch island => Sys2Proof.Machine.execClockStepSwitch island s
  | .governorTick draw => Sys2Proof.Machine.execGovernorTick draw s
  | .rampComplete island => Sys2Proof.Machine.execRampComplete island s
  | .idleWindDown island => Sys2Proof.Machine.execIdleWindDown island s
  | .islandClockLoss island => Sys2Proof.Machine.execIslandClockLoss island s
  | .handshakeTimeout island => Sys2Proof.Machine.execHandshakeTimeout island s
  | .droopBeyondLimit island => Sys2Proof.Machine.execDroopBeyondLimit island s
  | .coreStateError site kind => Sys2Proof.Machine.execCoreStateError site kind s
  | .memoryControllerFault pkg => Sys2Proof.Machine.execMemoryControllerFault pkg s
  | .spineFault allot => Sys2Proof.Machine.execSpineFault allot s
  | .logIntake => Sys2Proof.Machine.execLogIntake s
  | .sliceScrubRead patrol check => Sys2Proof.Machine.execSliceScrubRead patrol check s
  | .packageScrubRead pkg check => Sys2Proof.Machine.execPackageScrubRead pkg check s
  | .railFault rail => Sys2Proof.Machine.execRailFault rail s
  | .thermalTrip sensor => Sys2Proof.Machine.execThermalTrip sensor s
  | .thermtripTurnOff => Sys2Proof.Machine.execThermtripTurnOff s
  | .enJoined => Sys2Proof.Machine.execEnJoined s
  | .inputPowerGood report => Sys2Proof.Machine.execInputPowerGood report s
  | .inrushTimeout => Sys2Proof.Machine.execInrushTimeout s
  | .inrushRetry => Sys2Proof.Machine.execInrushRetry s
  | .inputLoss => Sys2Proof.Machine.execInputLoss s
  | .overVoltage => Sys2Proof.Machine.execOverVoltage s
  | .linkTraining port width rate partner => Sys2Proof.Machine.execLinkTraining port width rate partner s
  | .inputTurnOn => Sys2Proof.Machine.execInputTurnOn s
  | .clockStretch island => Sys2Proof.Machine.execClockStretch island s
  | .inputSample n low => Sys2Proof.Machine.execInputSample n low s

end Sys2Proof.Machine
end

