-- ==== Sys2Proof/Safety.lean ====
section
/-! DEFINITION. The terms claims are made in: a step that goes on, a state whose memories are in canonical form, an
instruction that the wheel offers and that is ready, and what an issued instruction leaves unchanged. -/

namespace Sys2Proof.Machine

open Host (Outcome)

/-- The machine goes on. -/
def GoesOn (o : Outcome State Fault Refusal) : Prop := ∃ t, o = .next t

/-- The command answers a next state with property P. -/
def Completes (c : Instr) (s : State) (P : State → Prop) : Prop := ∃ t, exec c s = .next t ∧ P t

/-- Both memory lists are in canonical form, so equal memories are equal data. -/
def State.Canonical (s : State) : Prop := Memory.wf s.mem = true ∧ Memory.wf s.hostMem = true

/-- The module is powered, and no fence that a persistent error calls for is outstanding (R322). -/
def State.Up (s : State) : Prop := s.supply.on = true ∧ s.fenceDue = []

/-- The wheel of site i.site offers instruction x to the ACTIVE context of k (R49): its word is in the code store at pc
and is not reserved (R294). -/
def Reached (x : Instr) (i : Issue) (s : State) (k : Offer) : Prop :=
  s.Up ∧ i.site < 576 ∧ s.wheelRuns i.site = true ∧
  k.site = i.site ∧ k.ctx = (s.core i.site).wheelCtx ∧ k.t = (s.core i.site).thread k.ctx ∧ k.t.st = .active ∧
  s.allotOfSite i.site = some k.allot ∧ (s.core i.site).taskOf k.ctx = some k.task ∧
  encode x = some ((s.core i.site).word k.t.pc.toNat) ∧ reservedWord ((s.core i.site).word k.t.pc.toNat) = false

/-- The wheel offers x, and no barrier or wait mask holds its thread (R46, R59). -/
def Offered (x : Instr) (i : Issue) (s : State) (k : Offer) : Prop :=
  Reached x i s k ∧ k.t.waiting = none ∧ k.t.sbs &&& i.wm = 0

/-- The offered instruction executes (R46, R47, R293): its predicate lets it, the scoreboard entry it names is clear,
and no scalar register it reads or writes is pending. -/
def Executes (x : Instr) (i : Issue) (regs : List Nat) (s : State) (k : Offer) : Prop :=
  Offered x i s k ∧ k.t.pred i.pr.toNat ≠ decide (i.pn = 1) ∧ (namesSb x = true → k.t.sbPending i.sb.toNat = false) ∧
  ∀ r ∈ regs, r = 0 ∨ r ∉ (s.core i.site).pendingRegs k.ctx

/-- No injected error stands, and none is armed (R321). -/
def State.NoInjection (s : State) : Prop :=
  s.injected = [] ∧ (∀ i, (s.island i).inj.getLsbD 0 = false) ∧ ∀ n, (s.pkg n).inj.getLsbD 0 = false

/-- Channel n joins the ready order of island x in cycle now, which leaves the order l: behind the channels that were ready
before it, and among those of the same cycle by number (R279). -/
def Island.JoinsReady (x : Island) (now : Word) (n : Nat) (l : List Nat) : Prop :=
  ∃ a b, x.readyOrder = a ++ b ∧ l = a ++ n :: b ∧ (∀ k ∈ a, (x.chan k).readyAt = now → k ≤ n) ∧
    ∀ k, b.head? = some k → (x.chan k).readyAt = now ∧ n < k

/-- A read by allotment p gives these bytes and meets no error (R28, R312). -/
def State.Reads (s : State) (p a n : Nat) (l : List Byte) : Prop := s.readCk p a n .clean = (.data l, s)

/-- Nothing outside the core of a site differs. -/
def State.OnlyCore (site : Nat) (s t : State) : Prop :=
  t = { s with cores := t.cores } ∧ ∀ j, j ≠ site → t.core j = s.core j

/-- Two cores differ in nothing but threads, the position of the wheel and the phase accounting. -/
def Core.SameButThreads (c d : Core) : Prop :=
  d = { c with
    threads := d.threads, phases := d.phases, cursor := d.cursor, left := d.left, waited := d.waited
    segNext := d.segNext, segment := d.segment, stall := d.stall }

/-- An instruction has issued: thread k.ctx of its core is th, f is what else became of the core, and every other
thread, every other core and everything outside the cores is as before. -/
def IssuedWith (s t : State) (k : Offer) (th : Thread) (f : Core → Core) : Prop :=
  State.OnlyCore k.site s t ∧ Core.SameButThreads (f (s.core k.site)) (t.core k.site) ∧
  (∀ j, j ≠ k.ctx → (t.core k.site).thread j = (s.core k.site).thread j) ∧ (t.core k.site).thread k.ctx = th

/-- An instruction has issued and changed nothing but its thread. -/
def Issued (s t : State) (k : Offer) (th : Thread) : Prop := IssuedWith s t k th id

/-- A task has aborted (R56, R57): TASK_FLT records the first abort, and keeps it at a later one; every context of the
task is HALTED, it no longer runs, and device memory is as before. -/
def TaskEnded (s t : State) (site task ctx cause : Nat) : Prop :=
  let c := s.core site
  let d := t.core site
  let w := c.taskFlt
  d.taskFlt.getLsbD 0 = true ∧
  (w.getLsbD 0 = false → d.taskFlt = BitVec.ofNat 64 (cause * 2 ^ 56 + task * 2 ^ 43 + ctx * 2 ^ 32 +
    (c.thread ctx).pc.toNat * 2 ^ 16 + (c.run task).retries * 4 + 1)) ∧
  (w.getLsbD 0 = true → d.taskFlt = setFld w 7 4 (min (fld w 7 4 + 1) 15)) ∧
  (∀ j ∈ teContexts (c.task task), (d.thread j).st = .halted) ∧ (d.run task).live = false ∧ t.mem = s.mem

/-- A command aborts a task with a cause (R56–R58). A task that may retry restarts with its step and has used a retry.
Any other keeps its retries, and its step is abandoned. -/
def AbortsTask (x : Instr) (s : State) (site task ctx cause : Nat) : Prop :=
  let r := (s.core site).run task
  if teIdem ((s.core site).task task) = true ∧ r.retries < teRetryLimit ((s.core site).task task) then
    Completes x s fun t => TaskEnded s t site task ctx cause ∧
      ((t.core site).run task).restart = some r.step ∧ ((t.core site).run task).retries = r.retries + 1
  else ∃ (p : Nat) (u : State), s.allotOfSite site = some p ∧ TaskEnded s u site task ctx cause ∧
    ((u.core site).run task).restart = r.restart ∧ ((u.core site).run task).retries = r.retries ∧
    exec x s = .next (u.abandonStep p).settleFences

/-- The wheel waits at its entry for one more stall cycle, and nothing else happens; the watchdog's limit is not reached
(R49, R52). -/
def Stalls (x : Instr) (i : Issue) (s : State) : Prop :=
  (s.core i.site).waited + 1 ≠ 2 ^ (s.core i.site).wdogLog2 →
    exec x s = .next (s.setCore i.site { s.core i.site with stall := true, waited := (s.core i.site).waited + 1 })

/-- The thread of k after an instruction that moves on to the next word. -/
def Offer.nextPc (k : Offer) (th : Thread) : Thread := { th with pc := k.t.pc + 1 }

/-- Whenever mk executes, register rd becomes f of its operands a and b, and nothing else changes. -/
def WritesReg (mk : Issue → FS → Instr) (f : FS → Word → Word → Word) : Prop :=
  ∀ (i : Issue) (o : FS) (s : State) (k : Offer), Executes (mk i o) i [o.rd.toNat, o.ra.toNat, o.rb.toNat] s k →
    Completes (mk i o) s fun t => Issued s t k (k.nextPc
      (k.t.setReg o.rd.toNat (f o (k.t.reg o.ra.toNat)
        (if o.ib = 1 then o.imm.signExtend 64 else k.t.reg o.rb.toNat))))

/-- Whenever mk executes, predicate rd bits 2:0 becomes the relation f of a and b, and nothing else changes. -/
def WritesPred (mk : Issue → FS → Instr) (f : Word → Word → Bool) : Prop :=
  ∀ (i : Issue) (o : FS) (s : State) (k : Offer), Executes (mk i o) i [o.ra.toNat, o.rb.toNat] s k →
    Completes (mk i o) s fun t => Issued s t k (k.nextPc
      (k.t.setPred (o.rd.toNat % 8) (f (k.t.reg o.ra.toNat)
        (if o.ib = 1 then o.imm.signExtend 64 else k.t.reg o.rb.toNat))))

/-- Whenever x executes and no vector register it names is pending (R228), it enters the arithmetic pipe with the
outcome r of its n elements; with n = 0 it only moves on (R230). Its thread, and nothing else, moves to the next word. -/
def EntersPipe (x : Instr) (i : Issue) (cs : BitVec 1) (cnt : BitVec 12) (vr sr : List Nat)
    (r : Offer → State → Nat → VecOut) : Prop :=
  ∀ (s : State) (k : Offer), Executes x i (countReg cs cnt :: sr) s k →
    (∀ v ∈ vr, v ∉ (s.core i.site).pendingV) →
    Completes x s fun t =>
      if countOf k cs cnt = 0 then Issued s t k (k.nextPc k.t)
      else IssuedWith s t k (k.nextPc k.t)
        fun c => { c with vArith := c.vArith ++ [(r k s (countOf k cs cnt)).op k.ctx] }

/-- The outcome that writes lanes 0 to n − 1 of vd, with the flags that the lanes set. -/
def lanesOf (vd : BitVec 5) (n : Nat) (f : Nat → Word32 × Flags) : VecOut :=
  { vd := some vd.toNat, elems := (List.range n).map fun j => (j, (f j).1)
    flags := (List.range n).foldl (fun a j => a ||| (f j).2) 0 }

/-- Element j of operand b of a V-format instruction (R232). -/
def bLane (o : FV) (k : Offer) (c : Core) (j : Nat) : Word32 :=
  if o.bs = 1 then (k.t.reg (o.vb.toNat % 16)).setWidth 32 else c.velem o.vb.toNat j

/-- An element-wise instruction of format V with srcs source operands: lane j of vd becomes f of lanes j of a, b and c. One that rounds
stochastically also waits for the registers of its key (R47, R83). -/
def MapsLanes (mk : Issue → FV → Instr) (srcs : Nat)
    (f : FV → Offer → State → Nat → Word32 → Word32 → Word32 → Word32 × Flags) : Prop :=
  ∀ (i : Issue) (o : FV), EntersPipe (mk i o) i o.cs o.cnt
    ([o.vd.toNat, o.va.toNat] ++ (if srcs = 1 ∨ o.bs = 1 then [] else [o.vb.toNat]) ++
      (if srcs = 3 then [o.vc.toNat] else []))
    ((if srcs ≠ 1 ∧ o.bs = 1 then [o.vb.toNat % 16] else []) ++ (if o.rm = 2 then [15, 2] else []))
    fun k s n => lanesOf o.vd n fun j =>
      f o k s j ((s.core k.site).velem o.va.toNat j) (bLane o k (s.core k.site) j)
        (if srcs = 3 then (s.core k.site).velem o.vc.toNat j else 0)

/-- The value of a lane of floating-point type ty. -/
def laneVal (ty : BitVec 2) (x : Word32) : Val := (regElem ty.toNat x).val

/-- The rounding that rm and ieee of an instruction ask for, in lane j (R81, R296). -/
def laneRnd (rm : BitVec 2) (k : Offer) (s : State) (j : Nat) : Rnd := rndOf rm.toNat (srKeyOf s k) j

/-- An exact floating-point result rounded once to type ty, with the flags of R90 (R94). -/
def roundedTo (ty : BitVec 2) (md : Rnd) (ieee : BitVec 1) (args : List Val) (r : Val) : Word32 × Flags :=
  let y := roundOp (tyFmt ty.toNat) md (ieee = 1) args r
  (BitVec.ofNat 32 ((tyFmt ty.toNat).encode y.1), y.2)

/-- An INT32 lane from an exact integer: it saturates, and sets overflow where it did (R232). -/
def saturated (x : Int) : Word32 × Flags :=
  if x < -2147483648 then (0x80000000, fOverflow)
  else if 2147483647 < x then (0x7FFFFFFF, fOverflow) else (BitVec.ofInt 32 x, 0)

/-- An operation is handed over: the scoreboard entry becomes pending, and the operation is in flight (R46). -/
def Launched (s t : State) (k : Offer) (sb : BitVec 3) (write : Bool) (kind : OpKind) : Prop :=
  IssuedWith s t k (k.nextPc (k.t.setSb sb.toNat true)) fun c =>
    { c with
      inflight := c.inflight ++ [{ id := c.nextOp, ctx := k.ctx, sb := sb.toNat, task := k.task, pc := k.t.pc.toNat
                                   write, kind }]
      nextOp := c.nextOp + 1 }

/-- A transfer enters the load path behind the earlier ones, and its scoreboard entry becomes pending (R103). f is what
else becomes of the core. -/
def EntersLoadPath (s t : State) (k : Offer) (sb : BitVec 3) (kind : LoadKind) (f : Core → Core) : Prop :=
  IssuedWith s t k (k.nextPc (k.t.setSb sb.toNat true)) fun c =>
    { f c with loadPath := c.loadPath ++ [{ ctx := k.ctx, sb := sb.toNat, task := k.task, pc := k.t.pc.toNat, kind }] }

/-- The command entry at the front of queue k of port p is served now (R353, R354): the turn of its queue has come, it
holds the opcode, and cid and l are its command identifier and its operands. -/
def Served (s : State) (p k op cid : Nat) (l : List Byte) : Prop :=
  s.Up ∧ p < 8 ∧ k < 8 ∧ (s.record p).isSome = true ∧ (s.port p).served = some k ∧ ∃ e,
    s.hostRead p (ringAddr ((s.port p).qp k).sqCfg ((s.port p).qp k).sqHead) 64 = some e ∧
    ofLe (slice e 0 1) = op ∧ ofLe (slice e 2 2) = cid ∧ e.drop 8 = l

/-- The state once the front entry of queue k of port p is consumed. -/
def State.taken (s : State) (p k : Nat) : State := s.modPort p fun po => po.takeEntry k

/-- The command's effect P holds, and its completion follows with a status and a payload. -/
def CompletesWith (c : Instr) (s : State) (p k cid status : Nat) (payload : List Byte) (P : State → Prop) : Prop :=
  Completes c s fun t => ∃ u, P u ∧ t = u.complete p k cid status payload

/-- A requester may make an access at offset o of a block that answers it (R428, R435, R343). -/
def Admitted (s : State) (who : Requester) (b : Block) (o : Nat) (wr : Bool) : Prop :=
  s.Up ∧ s.linked who o = true ∧ s.reaches who b o wr = true ∧ s.blockMet b = .open_

/-- The request's turn has come (R377): it arrives while none waits, or stands at the front of the queue before a request
that is not malformed. -/
def State.Turn (s : State) (h : Hmp) (cmd : Nat) (body : List Byte) : Prop :=
  s.hm.netQueue = [] ∨ ∃ q, s.hm.netQueue = datagram h cmd body :: q ∧ ∀ l, q.head? = some l → malformed l = false

/-- Hallmark answers requests (R378, R381): it is up, its network port carries them, its firmware runs and does not
restart. -/
def State.Answers (s : State) : Prop := s.Up ∧ s.hm.portUp = true ∧ s.unanswered = false ∧ s.hm.fwState ≠ 2

/-- Hallmark accepts a signed request (R377, R378): it answers requests, the turn has come, the key of the slot verifies
the signature, the nonce is the slot's, and the role suffices. -/
def Accepted (s : State) (h : Hmp) (role cmd : Nat) (body : List Byte) : Prop :=
  s.Answers ∧ s.Turn h cmd body ∧ h.slot.toNat < 4 ∧ s.hm.verifies h cmd body = true ∧
  h.nonce = (s.hm.key h.slot.toNat).nonce ∧ role ≤ (s.hm.key h.slot.toNat).role

/-- The response to a request with the slot's nonce (Table 10), signed by the attestation key (R377, R384). -/
def responseTo (m : Hallmark) (h : Hmp) (cmd status : Nat) (nonce : BitVec 256) (body : List Byte) : HmpResp :=
  { cmd := cmd, tag := h.tag, slot := h.slot, status := status, nonce := nonce, body := body
    sig := signBytes m.attestKey (hmpBytes 1 cmd h.tag h.slot status nonce body) }

/-- Hallmark has answered a request: the response echoes command, tag and slot and carries status, body and the slot's
nonce, which is a new one, under the attestation key's signature, and the request has left the queue (R377, R378). -/
def Answered (s t : State) (h : Hmp) (cmd status : Nat) (body : List Byte) : Prop :=
  t.hm.resp = some (responseTo s.hm h cmd status (t.hm.key h.slot.toNat).nonce body) ∧
  (∃ n, s.hm.drbg ≤ n ∧ n < t.hm.drbg ∧ (t.hm.key h.slot.toNat).nonce = Config.freshNonce n) ∧
  t.hm.netQueue = s.hm.netQueue.tail

/-- Nothing outside Hallmark differs. -/
def State.OnlyHallmark (s t : State) : Prop := t = { s with hm := t.hm }

/-- Every LOADED allotment has stopped with a reason (R340). -/
def AllStopped (s t : State) (reason : Nat) : Prop :=
  ∀ p, p < 8 → (s.spine p).st = .loaded → (s.spine p).plan.isSome = true →
    (t.spine p).st = .stopped ∧ (t.spine p).stopReason = reason

/-- A start of a kind has run (R413, R414): it has its number and its kind in BOOT_STAT. -/
def Started (s t : State) (kind : Nat) : Prop :=
  t.boot.start = s.boot.start + 1 ∧ t.boot.kind = BitVec.ofNat 3 kind ∧
  t.boot.restarts = (if kind = 4 then s.boot.restarts + 1 else 0)

/-- What allotment q holds is the same: its cores, islands, packages, port and partition of the spine (R361). -/
def State.Apart (q : Nat) (s t : State) : Prop :=
  (∀ j, s.allotOfSite j = some q → t.core j = s.core j) ∧ (∀ g, s.allotOfIsland g = some q → t.island g = s.island g) ∧
  (∀ n, s.allotOfPkg n = some q → t.pkg n = s.pkg n) ∧ t.port q = s.port q ∧ t.spine q = s.spine q

/-- No island and no package is in two records (R348). -/
def State.Partitioned (s : State) : Prop :=
  ∀ p, p < 8 → ∀ r ∈ s.record p,
    (∀ g, g < 36 → r.hasIsland g = true → s.allotOfIsland g = some p) ∧
    ∀ n, n < 12 → r.packages.getLsbD n = true → s.allotOfPkg n = some p

/-- No core runs anything: every core holds, unbound, with every context UNUSED. -/
def State.Quiet (t : State) : Prop :=
  ∀ x, (t.core x).hold = true ∧ (t.core x).bound = false ∧ ∀ k, ((t.core x).thread k).st = .unused

end Sys2Proof.Machine
end

