-- ==== Sys2Proof/WellFormed.lean ====
section
/-! DEFINITION. Which commands a sender may form: every unit a command names is one that the module has (R12–R15, R44,
R53, R365). Nothing else is asked: a command whose event does not stand changes nothing. -/

namespace Sys2Proof

/-- A sensor id of Table 2 of Hallmark (R365). -/
def sensorNumber (id : Nat) : Bool := id < 154 || (160 ≤ id && id < 192)

/-- Every unit number of the command is in range. -/
def Instr.wf : Instr → Bool
  | .ctlNop i _ | .ctlHalt i _ | .ctlBr i _ | .ctlJal i _ | .ctlJr i _ | .ctlWhl i _ | .ctlBar i _
  | .ctlSig i _ | .ctlSwt i _ | .scAdd i _ | .scSub i _ | .scMul i _ | .scAnd i _ | .scOr i _ | .scXor i _
  | .scShl i _ | .scShr i _ | .scShru i _ | .scMin i _ | .scMax i _ | .scMinu i _ | .scMaxu i _ | .scLi i _
  | .scSli i _ | .scCeq i _ | .scCne i _ | .scClt i _ | .scCle i _ | .scCltu i _ | .scCleu i _ | .scPset i _
  | .scLd i _ | .scLdw i _ | .scSt i _ | .scStw i _ | .scFlg i _ | .scFlgc i _ | .scCsr i _ | .vAdd i _
  | .vSub i _ | .vMul i _ | .vFma i _ | .vMax i _ | .vMin i _ | .vAbs i _ | .vNeg i _ | .vDiv i _
  | .vSqrt i _ | .vExp2 i _ | .vLog2 i _ | .vIadd i _ | .vIsub i _ | .vImul i _ | .vAnd i _ | .vOr i _
  | .vXor i _ | .vShl i _ | .vShr i _ | .vShru i _ | .vCvt i _ | .vCeq i _ | .vCne i _ | .vClt i _
  | .vCle i _ | .vCgt i _ | .vCge i _ | .vCun i _ | .vSel i _ | .vPack i _ | .vUnpk i _ | .vPerm i _
  | .vBcast i _ | .vTr32 i _ | .vIns i _ | .vLd i _ | .vSt i _ | .vGth i _ | .vSct i _ | .vSadd i _
  | .vSum i _ | .vSsq i _ | .vDot i _ | .vRmax i _ | .vRmin i _ | .vMv i _ | .vCnt i _ | .vExt i _
  | .mxLdw i _ | .mxPre i _ | .mxMul i _ | .mxDrn i _ | .spPrd i _ | .mkCap i _ | .stReq i _ | .stPop i _
  | .stRel i _ | .dmGo i _ | .dmStop i _ | .upAcc i _ | .upFin i _ | .rnDrop i _ | .rnWord i _ | .pwRamp i _
  | .pwBsel i _ => decide (i.site < 576)
  | .taskStart site => decide (site < 576)
  | .triggerFire site task => decide (site < 576) && decide (task < 32)
  | .wheelWatchdog site => decide (site < 576)
  | .signalDelivery _ => true
  | .memoryAccessComplete site _ _ _ | .tileLoadComplete site _ => decide (site < 576)
  | .drainStart site tile | .overflowReplay site tile | .drainComplete site tile
  | .predictedTileOpen site tile => decide (site < 576) && decide (tile < 2)
  | .streamEntryFetch turn => decide (turn.site < 576)
  | .streamEntryPresent site queue _ => decide (site < 576) && decide (queue < 16)
  | .vectorComplete site => decide (site < 576)
  | .dmaDescriptor island _ => decide (island < 36)
  | .dmaChGo _ island ch | .dmaChStop _ island ch => decide (island < 36) && decide (ch < 32)
  | .upAccApply site _ _ _ => decide (site < 576)
  | .reductionReport allot _ | .endOfReductionMark allot _ | .verdict allot => decide (allot < 8)
  | .planisherTileUpdate pkg _ | .clearPass pkg => decide (pkg < 12)
  | .trustRatio allot => decide (allot < 8)
  | .planisherUpdateCompletion pkg => decide (pkg < 12)
  | .captureComplete island _ | .vetchTileEvolve island _ => decide (island < 36)
  | .changeList pkg _ => decide (pkg < 12)
  | .vetchTileWrite island => decide (island < 36)
  | .stepBoundary allot | .cutConsistent allot | .pageUndoCopy allot _ => decide (allot < 8)
  | .plannedFence site => decide (site < 576)
  | .replayStartMark island | .planStartMark island | .stepMark island | .boundaryMark island => decide (island < 36)
  | .phaseTimeRecordWrite unit _ => decide (unit < 596)
  | .ingestRecord port | .closeRecord port | .ingProdWrite _ port _ | .ingCfgWrite _ port _ _ _ => decide (port < 8)
  | .sqTailDoorbell _ port k _ _ _ | .cqHeadWrite _ port k _ _ _ => decide (port < 8) && decide (k < 8)
  | .loadPlan port sq _ | .unload port sq | .stop port sq | .resume port sq | .exportCut port sq
  | .restart port sq _ | .wallMark port sq | .query port sq => decide (port < 8) && decide (sq < 8)
  | .ingotExpGo _ allot _ _ _ | .exportEnd allot | .validatorRequest _ allot _ _ _ => decide (allot < 8)
  | .loaderAliasWrite _ _ _ _ | .tableWindowWrite _ _ _ _ | .rcRegisterRead _ _ _ | .registerWrite _ _ _ _ => true
  | .mbxWdogWrite _ allot _ _ _ | .osWatchdogExpiry allot => decide (allot < 8)
  | .hostApertureAccess port _ _ _ | .hostRequestFault port _ _ => decide (port < 8)
  | .ideStreamInsecure port stream => decide (port < 8) && decide (stream < 2)
  | .linkDown fall => decide (fall.port < 8)
  | .functionLevelReset port | .hotReset port | .d3hotEntry port | .doeSpdmMessage port _ => decide (port < 8)
  | .networkFrame _ | .ident _ | .getNonce _ _ | .readSensors _ _ _ | .readLog _ _ _ | .alertClear _
  | .getAllot _ | .setAllot _ _ | .checkpoint _ | .fence _ | .setEnvelope _ _ _ | .setFilter _ _ _
  | .setNet _ _ | .setThresh _ _ _ | .fwStage _ _ _ | .fwVerify _ _ | .fwActivate _ | .fwSelfTestResult _
  | .fwSvnCommit _ | .keySet _ _ _ _ | .keyRevoke _ _ | .spdm _ _ | .jtagUnlock _ _ _ | .moduleReset _ _
  | .computeReset _ _ | .hallmarkReset _ _ | .hallmarkWatchdogExpiry _ | .journalRestart _
  | .startupStepLimit _ _ _ => true
  | .inputFilterEnter n | .inputFilterLeave n | .inputHeldAlert n => decide (n < 4)
  | .flowWindow _ => true
  | .sensorSample id _ => sensorNumber id
  | .throttleStepUp island | .clockStepSwitch island => decide (island < 36)
  | .governorTick _ => true
  | .rampComplete island => decide (island < 36)
  | .idleWindDown island => decide (island < 48)
  | .islandClockLoss island | .handshakeTimeout island => decide (island < 60)
  | .droopBeyondLimit island => decide (island < 36)
  | .coreStateError site _ => decide (site < 576)
  | .memoryControllerFault pkg => decide (pkg < 12)
  | .spineFault allot => decide (allot < 8)
  | .logIntake => true
  | .sliceScrubRead p _ => decide (p.site < 576)
  | .packageScrubRead pkg _ => decide (pkg < 12)
  | .railFault rail => decide (rail < 16)
  | .thermalTrip sensor => decide (sensor < 96) || (decide (132 ≤ sensor) && decide (sensor < 148))
  | .thermtripTurnOff | .enJoined | .inputPowerGood _ | .inrushTimeout | .inrushRetry | .inputLoss
  | .overVoltage => true
  | .linkTraining port _ _ _ => decide (port < 8)
  | .inputTurnOn => true
  | .clockStretch island => decide (island < 36)
  | .inputSample n _ => decide (n < 5)

end Sys2Proof
end

