-- ==== Sys2Proof/Certificates/Slice0/Obligations.lean ====
section
/-! DEFINITION. The statements about this model that are put to the provers. -/

open Sys2Proof Sys2Proof.Machine

/-! ### The block -/

/-- A step runs the command at the front of the queue on the state with the queue's rest. On an empty queue one tick
passes (the model's choice, log entries 1 and 33). -/
def Obligations.StepRunsFrontCommand : Prop :=
  (∀ (c : Instr) (rest : List Instr) (s : State),
    step { s with pending := c :: rest } = exec c { s with pending := rest }) ∧
  ∀ s : State, s.pending = [] → step s = .next s.tick ∧ s.tick.ticks = s.ticks + 1 ∧ s.tick.pending = []

/-- Every command is answered: a command whose unit numbers are those of R12–R15 completes in every state, and any other
ends in the fault noSuchUnit. Nothing is refused. That an unknown unit ends in that fault, and that every other command
completes in every state, are the model's choices (log entries 5 and 4). -/
def Obligations.OnlyUnknownUnitsStop : Prop :=
  ∀ (c : Instr) (s : State),
    (c.wf = true → GoesOn (exec c s)) ∧ (c.wf = false → exec c s = .fault .noSuchUnit)

/-- Every step keeps both memories in canonical form. The form, sorted and with no byte of value 0 listed, is the
model's choice (log entry 7). -/
def Obligations.StepKeepsCanonicalMemory : Prop :=
  ∀ s t : State, s.Canonical → step s = .next t → t.Canonical

/-- The memories are in canonical form after reset: they list nothing, which is the model's choice (log entry 7). -/
def Obligations.ResetIsCanonical : Prop := State.reset.Canonical

/-- R322, R324: a command leaves no fence outstanding of those that persistent errors call for, and those that were
outstanding when it came are made, each slice and each package. That they are made at the end of a command is the
model's choice (log entry 71). -/
def Obligations.DueFencesAreMade : Prop :=
  (∀ (f : State → State) (ok : Bool) (s t : State) (n cls : Nat), s.supply.on = true → s.onUnit ok f = .next t →
    ((1, n, cls) ∈ (f s).fenceDue → n < 576 → (t.island (islandOf n)).sliceFence.getLsbD (posOf n) = true) ∧
    ((2, n, cls) ∈ (f s).fenceDue → (t.pkg n).fenced = true)) ∧
  ∀ (c : Instr) (s t : State), s.fenceDue = [] → exec c s = .next t → t.fenceDue = []

/-! ### Instruction words -/

/-- Decoding the word of any instruction row gives that instruction back, with every operand. The five words of Table 11 of
Instruction Encodings are four instructions with their fields, and one that is reserved because it sets imm with ib = 0. -/
def Obligations.WordRoundTrip : Prop :=
  (∀ (x : Instr) (w : Word), encode x = some w → ∃ site, decode site w = some x) ∧
  ∀ x : Nat,
    let i (pr : BitVec 3) (wm : BitVec 8) : Issue := { site := x, pr := pr, pn := 0, wm := wm, sb := 0 }
    decode x 0x1600002884000000 = some (.scLd (i 0 0) { rd := 5, ra := 1, rb := 0, ib := 1, imm := 0 }) ∧
    decode x 0x1000043AB0000000 = some (.scAdd (i 0 1) { rd := 7, ra := 5, rb := 6, ib := 0, imm := 0 }) ∧
    decode x 0x50D0002123AA100C = some (.vFma (i 2 0)
      { vd := 8, va := 9, vb := 3, bs := 1, vc := 10, ty := 2, rm := 0, ieee := 0, cs := 1, cnt := 0xC }) ∧
    decode x 0x2080203180880000 = some (.mxMul (i 0 8)
      { tl := 0, bk := 1, t := 1, m := 3, r0 := 0, q := 2, sf := 1, pc := 0, pd := 0, z := 0 }) ∧
    reservedWord 0x1600002884000000 = false ∧ reservedWord 0x1000043AB0000000 = false ∧
    reservedWord 0x50D0002123AA100C = false ∧ reservedWord 0x2080203180880000 = false ∧
    reservedWord 0x1000043AB0000001 = true

/-! ### Instructions -/

/-- R300: sc.add to sc.sli write rd with their result modulo 2^64, and nothing but rd and the program counter. -/
def Obligations.ScalarArithmetic : Prop :=
  WritesReg .scAdd (fun _ a b => BitVec.ofInt 64 (a.toInt + b.toInt)) ∧
  WritesReg .scSub (fun _ a b => BitVec.ofInt 64 (a.toInt - b.toInt)) ∧
  WritesReg .scMul (fun _ a b => BitVec.ofInt 64 (a.toInt * b.toInt)) ∧
  WritesReg .scAnd (fun _ a b => a &&& b) ∧
  WritesReg .scOr (fun _ a b => a ||| b) ∧
  WritesReg .scXor (fun _ a b => a ^^^ b) ∧
  WritesReg .scShl (fun _ a b => BitVec.ofNat 64 (a.toNat * 2 ^ (b.toNat % 64))) ∧
  WritesReg .scShr (fun _ a b => BitVec.ofInt 64 (a.toInt / 2 ^ (b.toNat % 64))) ∧
  WritesReg .scShru (fun _ a b => BitVec.ofNat 64 (a.toNat / 2 ^ (b.toNat % 64))) ∧
  WritesReg .scMin (fun _ a b => if a.toInt ≤ b.toInt then a else b) ∧
  WritesReg .scMax (fun _ a b => if a.toInt ≤ b.toInt then b else a) ∧
  WritesReg .scMinu (fun _ a b => if a.toNat ≤ b.toNat then a else b) ∧
  WritesReg .scMaxu (fun _ a b => if a.toNat ≤ b.toNat then b else a) ∧
  WritesReg .scLi (fun _ _ b => b) ∧
  WritesReg .scSli (fun o a _ => BitVec.ofNat 64 (a.toNat * 2 ^ 26 + o.imm.toNat))

/-- R300: the compares and sc.pset write one predicate, and nothing but it and the program counter. R292, R45: s0
reads 0 and p0 reads true whatever is written to them, and every other register and predicate reads what was written
last. -/
def Obligations.PredicatesAndZeroRegister : Prop :=
 (WritesPred .scCeq (fun a b => decide (a = b)) ∧
  WritesPred .scCne (fun a b => decide (a ≠ b)) ∧
  WritesPred .scClt (fun a b => decide (a.toInt < b.toInt)) ∧
  WritesPred .scCle (fun a b => decide (a.toInt ≤ b.toInt)) ∧
  WritesPred .scCltu (fun a b => decide (a.toNat < b.toNat)) ∧
  WritesPred .scCleu (fun a b => decide (a.toNat ≤ b.toNat)) ∧
  ∀ (i : Issue) (o : FS) (s : State) (k : Offer), Executes (.scPset i o) i [] s k →
    Completes (.scPset i o) s fun t => Issued s t k (k.nextPc (k.t.setPred (o.rd.toNat % 8)
      (o.imm.toNat.testBit (2 * (k.t.pred (o.ra.toNat % 8)).toNat + (k.t.pred (o.rb.toNat % 8)).toNat))))) ∧
  ∀ (t : Thread) (r q : Nat) (v : Word) (p n : Nat) (b : Bool), p < 8 → n < 8 →
    (t.setReg r v).reg q = (if q = 0 then 0 else if q = r then v else t.reg q) ∧
    (t.setPred p b).pred n = (if n = 0 then true else if n = p then b else t.pred n)

/-- R302, R300, R430, R49: sc.flg and sc.flgc stall until every earlier flag-setting instruction of the context has completed,
then write the flag word to rd, and sc.flgc clears the flags; sc.csr writes a register of the thread's own core. -/
def Obligations.ScalarFlagsAndCsr : Prop :=
  (∀ (i : Issue) (o : FS) (s : State) (k : Offer), Executes (.scFlg i o) i [o.rd.toNat] s k →
    (s.core i.site).flagsPending k.ctx = false →
    Completes (.scFlg i o) s fun t => Issued s t k (k.nextPc (k.t.setReg o.rd.toNat (k.t.flags.setWidth 64)))) ∧
  (∀ (i : Issue) (o : FS) (s : State) (k : Offer), Executes (.scFlgc i o) i [o.rd.toNat] s k →
    (s.core i.site).flagsPending k.ctx = false →
    Completes (.scFlgc i o) s fun t => Issued s t k
      { k.nextPc (k.t.setReg o.rd.toNat (k.t.flags.setWidth 64)) with flags := 0 }) ∧
  (∀ (x : Instr) (i : Issue) (o : FS) (s : State) (k : Offer), x = .scFlg i o ∨ x = .scFlgc i o →
    Executes x i [o.rd.toNat] s k → (s.core i.site).flagsPending k.ctx = true →
    Stalls x i s) ∧
  ∀ (i : Issue) (o : FS) (s : State) (k : Offer), Executes (.scCsr i o) i [o.rd.toNat] s k →
    Completes (.scCsr i o) s fun t => Issued s t k
      (k.nextPc (k.t.setReg o.rd.toNat (s.regValue (.core i.site) o.imm.toNat)))

/-- R292, R300, R301, R28, R56–R58: an aligned access through a base register whose bits 63:52 are 0, below the register space that
the allotment reaches is handed to the memory system with its address and its data, and its scoreboard entry becomes
pending; memory is as before until it completes. A misaligned access, one through any other base register, one from
the register space upward, and one that the allotment does not reach abort the task with cause 0x01. A thread cannot
reach a register by a load or a store, whosever it is. That the address is checked at issue is the model's choice (log
entry 13). -/
def Obligations.ScalarLoadsAndStores : Prop :=
 (∀ (i : Issue) (o : FS) (s : State) (k : Offer) (a : Nat),
    (k.t.reg o.ra.toNat).toNat < 2 ^ 52 → k.t.reg o.ra.toNat + o.imm.signExtend 64 = BitVec.ofNat 64 a →
    a < 0xF00000000000 →
    (Executes (.scLd i o) i [o.rd.toNat, o.ra.toNat, o.rb.toNat] s k → a % 8 = 0 →
      (s.resolveRange k.allot a 8 false).isSome →
      Completes (.scLd i o) s fun t => Launched s t k i.sb false (.load o.rd.toNat a false)) ∧
    (Executes (.scLdw i o) i [o.rd.toNat, o.ra.toNat, o.rb.toNat] s k → a % 4 = 0 →
      (s.resolveRange k.allot a 4 false).isSome →
      Completes (.scLdw i o) s fun t => Launched s t k i.sb false (.load o.rd.toNat a true)) ∧
    (Executes (.scSt i o) i [o.rd.toNat, o.ra.toNat, o.rb.toNat] s k → a % 8 = 0 →
      (s.resolveRange k.allot a 8 true).isSome →
      Completes (.scSt i o) s fun t =>
        Launched s t k i.sb true (.store a (leBytes 8 (k.t.reg o.rb.toNat).toNat))) ∧
    (Executes (.scStw i o) i [o.rd.toNat, o.ra.toNat, o.rb.toNat] s k → a % 4 = 0 →
      (s.resolveRange k.allot a 4 true).isSome →
      Completes (.scStw i o) s fun t =>
        Launched s t k i.sb true (.store a (leBytes 4 (k.t.reg o.rb.toNat).toNat)))) ∧
  let faults (mk : Issue → FS → Instr) (n : Nat) (wr : Bool) : Prop :=
    ∀ (i : Issue) (o : FS) (s : State) (k : Offer) (a : Nat), Executes (mk i o) i [o.rd.toNat, o.ra.toNat, o.rb.toNat] s k →
      k.t.reg o.ra.toNat + o.imm.signExtend 64 = BitVec.ofNat 64 a → a < 2 ^ 64 →
      (2 ^ 52 ≤ (k.t.reg o.ra.toNat).toNat ∨ a % n ≠ 0 ∨ 0xF00000000000 ≤ a ∨ s.resolveRange k.allot a n wr = none) →
      AbortsTask (mk i o) s i.site k.task k.ctx 0x01
  faults .scLd 8 false ∧ faults .scLdw 4 false ∧ faults .scSt 8 true ∧ faults .scStw 4 true

/-- R299: ctl.nop only moves on; ctl.br, ctl.jal and ctl.jr set pc; ctl.jal writes pc + 1 to rd; ctl.whl names the next
segment, which the wheel takes at the end of its entry (R50).
R44, R55: ctl.halt leaves its context HALTED; while another context of its task is ACTIVE nothing else changes, and
when it was the last one the task has completed: it no longer runs and its retries are 0. -/
def Obligations.ControlFlow : Prop :=
 ((∀ (i : Issue) (o : FZ) (s : State) (k : Offer), Executes (.ctlNop i o) i [] s k →
    Completes (.ctlNop i o) s fun t => Issued s t k (k.nextPc k.t)) ∧
  (∀ (i : Issue) (o : FB) (s : State) (k : Offer), Executes (.ctlBr i o) i [] s k →
    Completes (.ctlBr i o) s fun t => Issued s t k { k.t with pc := o.tgt }) ∧
  (∀ (i : Issue) (o : FB) (s : State) (k : Offer), Executes (.ctlJal i o) i [o.rd.toNat] s k →
    Completes (.ctlJal i o) s fun t => Issued s t k
      { k.t.setReg o.rd.toNat ((k.t.pc + 1).setWidth 64) with pc := o.tgt }) ∧
  (∀ (i : Issue) (o : FB) (s : State) (k : Offer), Executes (.ctlJr i o) i [o.ra.toNat] s k →
    Completes (.ctlJr i o) s fun t => Issued s t k { k.t with pc := (k.t.reg o.ra.toNat).setWidth 14 }) ∧
  ∀ (i : Issue) (o : FK) (s : State) (k : Offer), Executes (.ctlWhl i o) i [] s k →
    Completes (.ctlWhl i o) s fun t => Issued s t k (k.nextPc k.t) ∧
      (2 ≤ (s.core i.site).left → (t.core i.site).segNext = o.k.toNat) ∧
      ((s.core i.site).left ≤ 1 → o.k.toNat < 8 → (t.core i.site).segment = o.k.toNat)) ∧
  ∀ (i : Issue) (o : FZ) (s : State) (k : Offer), Executes (.ctlHalt i o) i [] s k →
    Completes (.ctlHalt i o) s fun t =>
      ((t.core i.site).thread k.ctx).st = .halted ∧ ((t.core i.site).thread k.ctx).pc = k.t.pc + 1 ∧
      (∀ j, j ≠ k.ctx → (t.core i.site).thread j = (s.core i.site).thread j) ∧
      t.mem = s.mem ∧ t.hostMem = s.hostMem ∧
      if (teContexts ((s.core i.site).task k.task)).any
          (fun j => decide (j ≠ k.ctx) && decide (((s.core i.site).thread j).st = .active)) then
        State.OnlyCore i.site s t ∧ (t.core i.site).run k.task = (s.core i.site).run k.task
      else ((t.core i.site).run k.task).live = false ∧ ((t.core i.site).run k.task).retries = 0

/-- R60, R61: ctl.sig sends its count to the slot of the named core, behind the thread's own earlier writes; a core that
the layout lacks aborts the task with cause 0x01. R60: ctl.swt takes its count from a slot that holds it. R59: an arrival
that is not the last one parks its context; the last one lets every waiting context go on and clears the barrier, and so
does one that finds the count past n (the model's choice, log entry 15). An arrival at a barrier that another task has
begun aborts with cause 0x06 (R56–R58). -/
def Obligations.SignalsWaitsAndBarriers : Prop :=
 (∀ (i : Issue) (o : FK) (s : State) (k : Offer) (pl : Plan) (core : Nat), Executes (.ctlSig i o) i [2, o.ra.toNat] s k →
    (s.spine k.allot).plan = some pl →
    core = (if o.cr = 1 then (k.t.reg o.ra.toNat).toNat % 512 else o.c.toNat) → core < pl.cores →
    Completes (.ctlSig i o) s fun t =>
      t.signals = s.signals ++ [{
        src := srcThread i.site k.ctx, srcSite := i.site, after := (s.core i.site).writesOf fun c _ => c = k.ctx
        dst := (FMap.getD (s.core i.site).binding core 0).toNat % 1024, slot := o.k.toNat, n := o.n.toNat
        step := k.t.reg 2 }] ∧
      Issued { s with signals := t.signals } t k (k.nextPc k.t)) ∧
  (∀ (i : Issue) (o : FK) (s : State) (k : Offer) (pl : Plan), Executes (.ctlSig i o) i [2, o.ra.toNat] s k →
    (s.spine k.allot).plan = some pl →
    pl.cores ≤ (if o.cr = 1 then (k.t.reg o.ra.toNat).toNat % 512 else o.c.toNat) →
    AbortsTask (.ctlSig i o) s i.site k.task k.ctx 0x01) ∧
  (∀ (i : Issue) (o : FK) (s : State) (k : Offer) (b : Barrier), Executes (.ctlBar i o) i [] s k →
    FMap.getD (s.core i.site).bars (o.k.toNat % 16) {} = b → b.count ≠ 0 → b.task ≠ k.task →
    AbortsTask (.ctlBar i o) s i.site k.task k.ctx 0x06) ∧
  (∀ (i : Issue) (o : FK) (s : State) (k : Offer), Executes (.ctlSwt i o) i [] s k →
    o.n.toNat ≤ (FMap.getD (s.core i.site).slots o.k.toNat {}).count →
    Completes (.ctlSwt i o) s fun t => IssuedWith s t k (k.nextPc k.t) fun c =>
      let x := FMap.getD c.slots o.k.toNat {}
      { c with slots := FMap.insert o.k.toNat { x with count := x.count - o.n.toNat } c.slots }) ∧
  ∀ (i : Issue) (o : FK) (s : State) (k : Offer) (b : Barrier), Executes (.ctlBar i o) i [] s k → o.k.toNat < 16 →
    FMap.getD (s.core i.site).bars o.k.toNat {} = b → (b.count = 0 ∨ b.task = k.task) → k.ctx ∉ b.waiters →
    Completes (.ctlBar i o) s fun t =>
      State.OnlyCore i.site s t ∧
      if b.count + 1 < o.n.toNat then
        FMap.getD (t.core i.site).bars o.k.toNat {} =
          { count := b.count + 1, task := k.task, waiters := b.waiters ++ [k.ctx] } ∧
        (t.core i.site).thread k.ctx = k.nextPc { k.t with waiting := some o.k.toNat } ∧
        ∀ j, j ≠ k.ctx → (t.core i.site).thread j = (s.core i.site).thread j
      else
        FMap.getD (t.core i.site).bars o.k.toNat {} = {} ∧ (t.core i.site).thread k.ctx = k.nextPc k.t ∧
        ∀ j, j ≠ k.ctx → (t.core i.site).thread j =
          if j ∈ b.waiters then { (s.core i.site).thread j with waiting := none } else (s.core i.site).thread j

/-- R232, R233, R92, R94: the arithmetic of the vector engine, lane by lane. A floating-point lane is the exact result
rounded once; an INT32 lane saturates. -/
def Obligations.VectorArithmetic : Prop :=
  MapsLanes .vAdd 2 (fun o k s j a b _ =>
    if o.ty = 1 then saturated (a.toInt + b.toInt)
    else roundedTo o.ty (laneRnd o.rm k s j) o.ieee [laneVal o.ty a, laneVal o.ty b]
      ((laneVal o.ty a).add (laneVal o.ty b))) ∧
  MapsLanes .vSub 2 (fun o k s j a b _ =>
    if o.ty = 1 then saturated (a.toInt - b.toInt)
    else roundedTo o.ty (laneRnd o.rm k s j) o.ieee [laneVal o.ty a, laneVal o.ty b]
      ((laneVal o.ty a).add (laneVal o.ty b).neg)) ∧
  MapsLanes .vMul 2 (fun o k s j a b _ =>
    if o.ty = 1 then saturated (a.toInt * b.toInt)
    else roundedTo o.ty (laneRnd o.rm k s j) o.ieee [laneVal o.ty a, laneVal o.ty b]
      ((laneVal o.ty a).mul (laneVal o.ty b))) ∧
  MapsLanes .vFma 3 (fun o k s j a b c =>
    roundedTo o.ty (laneRnd o.rm k s j) o.ieee [laneVal o.ty a, laneVal o.ty b, laneVal o.ty c]
      (((laneVal o.ty a).mul (laneVal o.ty b)).add (laneVal o.ty c))) ∧
  MapsLanes .vDiv 2 (fun o k s j a b _ =>
    let y := fpDiv (tyFmt o.ty.toNat) (laneRnd o.rm k s j) (o.ieee = 1) (laneVal o.ty a) (laneVal o.ty b)
    (BitVec.ofNat 32 ((tyFmt o.ty.toNat).encode y.1), y.2)) ∧
  MapsLanes .vSqrt 1 (fun o k s j a _ _ =>
    roundedTo o.ty (laneRnd o.rm k s j) o.ieee [laneVal o.ty a] (laneVal o.ty a).sqrt) ∧
  MapsLanes .vExp2 1 (fun o k s j a _ _ =>
    roundedTo o.ty (laneRnd o.rm k s j) o.ieee [laneVal o.ty a] (laneVal o.ty a).exp2) ∧
  MapsLanes .vLog2 1 (fun o k s j a _ _ =>
    roundedTo o.ty (laneRnd o.rm k s j) o.ieee [laneVal o.ty a] (laneVal o.ty a).log2) ∧
  MapsLanes .vCvt 1 (fun o k s j a _ _ =>
    toReg (o.vc.toNat % 4) (laneRnd o.rm k s j) (o.ieee = 1) (regElem o.ty.toNat a))

/-- R232, R92, R93, R235: maxima, minima, signs, comparisons and v.sel, which round nothing. A NaN operand sets NaN-seen;
an INT32 |a| or −a saturates; a comparison writes 1 or 0.
R232: the INT32 operations that wrap, and the bitwise ones and shifts. They set no flag. -/
def Obligations.VectorLaneOperations : Prop :=
 ((let ext (big : Bool) (fp : Val → Val → Val) (o : FV) (a b : Word32) : Word32 × Flags :=
    if o.ty = 1 then (if (a.toInt < b.toInt) = (big = true) then b else a, 0)
    else (BitVec.ofNat 32 ((tyFmt o.ty.toNat).encode (fp (laneVal o.ty a) (laneVal o.ty b))),
      if (laneVal o.ty a).isNan || (laneVal o.ty b).isNan then fNan else 0)
   MapsLanes .vMax 2 (fun o _ _ _ a b _ => ext true fmax o a b) ∧
   MapsLanes .vMin 2 (fun o _ _ _ a b _ => ext false fmin o a b)) ∧
  (let sign (fp : Val → Val) (int : Int → Int) (o : FV) (a : Word32) : Word32 × Flags :=
    if o.ty = 1 then saturated (int a.toInt)
    else (BitVec.ofNat 32 ((tyFmt o.ty.toNat).encode (fp (laneVal o.ty a))), if (laneVal o.ty a).isNan then fNan else 0)
   MapsLanes .vAbs 1 (fun o _ _ _ a _ _ => sign magOf (fun x => if x < 0 then -x else x) o a) ∧
   MapsLanes .vNeg 1 (fun o _ _ _ a _ _ => sign Val.neg (fun x => -x) o a)) ∧
  (let cmp (fp : Val → Val → Bool) (int : Int → Int → Bool) (o : FV) (a b : Word32) : Word32 × Flags :=
    if o.ty = 1 then (if int a.toInt b.toInt then 1 else 0, 0)
    else (if fp (laneVal o.ty a) (laneVal o.ty b) then 1 else 0,
      if (laneVal o.ty a).isNan || (laneVal o.ty b).isNan then fNan else 0)
   MapsLanes .vCeq 2 (fun o _ _ _ a b _ => cmp (fun u v => u.eqv v) (fun x y => decide (x = y)) o a b) ∧
   MapsLanes .vCne 2 (fun o _ _ _ a b _ => cmp (fun u v => !u.eqv v) (fun x y => decide (x ≠ y)) o a b) ∧
   MapsLanes .vClt 2 (fun o _ _ _ a b _ => cmp (fun u v => u.lt v) (fun x y => decide (x < y)) o a b) ∧
   MapsLanes .vCle 2 (fun o _ _ _ a b _ => cmp (fun u v => u.lt v || u.eqv v) (fun x y => decide (x ≤ y)) o a b) ∧
   MapsLanes .vCgt 2 (fun o _ _ _ a b _ => cmp (fun u v => v.lt u) (fun x y => decide (y < x)) o a b) ∧
   MapsLanes .vCge 2 (fun o _ _ _ a b _ => cmp (fun u v => v.lt u || v.eqv u) (fun x y => decide (y ≤ x)) o a b) ∧
   MapsLanes .vCun 2 (fun o _ _ _ a b _ => cmp (fun u v => u.isNan || v.isNan) (fun _ _ => false) o a b)) ∧
  MapsLanes .vSel 3 (fun o _ _ _ a b m =>
    let x := if m = 0 then b else a
    (if o.ty.toNat < 2 then x else BitVec.ofNat 32 (x.toNat % 65536), 0))) ∧
  MapsLanes .vIadd 2 (fun _ _ _ _ a b _ => (BitVec.ofInt 32 (a.toInt + b.toInt), 0)) ∧
  MapsLanes .vIsub 2 (fun _ _ _ _ a b _ => (BitVec.ofInt 32 (a.toInt - b.toInt), 0)) ∧
  MapsLanes .vImul 2 (fun _ _ _ _ a b _ => (BitVec.ofInt 32 (a.toInt * b.toInt), 0)) ∧
  MapsLanes .vAnd 2 (fun _ _ _ _ a b _ => (a &&& b, 0)) ∧
  MapsLanes .vOr 2 (fun _ _ _ _ a b _ => (a ||| b, 0)) ∧
  MapsLanes .vXor 2 (fun _ _ _ _ a b _ => (a ^^^ b, 0)) ∧
  MapsLanes .vShl 2 (fun _ _ _ _ a b _ => (BitVec.ofNat 32 (a.toNat * 2 ^ (b.toNat % 32)), 0)) ∧
  MapsLanes .vShr 2 (fun _ _ _ _ a b _ => (BitVec.ofInt 32 (a.toInt / 2 ^ (b.toNat % 32)), 0)) ∧
  MapsLanes .vShru 2 (fun _ _ _ _ a b _ => (BitVec.ofNat 32 (a.toNat / 2 ^ (b.toNat % 32)), 0))

/-- R236–R239, R304: compress, expand, permute, broadcast, transpose and insert. R230: a transpose of no elements only
moves on. A transpose whose count is no multiple of 1024 aborts its task with cause 0x04 (R56–R58). -/
def Obligations.VectorPermutation : Prop :=
  let cut (o : FV) (x : Word32) : Word32 := if o.ty.toNat < 2 then x else BitVec.ofNat 32 (x.toNat % 65536)
  (∀ (i : Issue) (o : FV), EntersPipe (.vPack i o) i o.cs o.cnt [o.vd.toNat, o.va.toNat, o.vb.toNat]
    [o.vc.toNat % 16] fun k s n =>
      let c := s.core k.site
      let kept := (List.range n).filter fun j => c.velem o.vb.toNat j ≠ 0
      { vd := some o.vd.toNat
        elems := (List.range kept.length).map fun j => (j, cut o (c.velem o.va.toNat (kept.getD j 0)))
        sd := some (o.vc.toNat % 16, BitVec.ofNat 64 kept.length) }) ∧
  (∀ (i : Issue) (o : FV), EntersPipe (.vUnpk i o) i o.cs o.cnt [o.vd.toNat, o.va.toNat, o.vb.toNat] []
    fun k s n =>
      let c := s.core k.site
      { vd := some o.vd.toNat
        elems := (List.range n).map fun j => (j,
          if c.velem o.vb.toNat j = 0 then 0
          else cut o (c.velem o.va.toNat (((List.range j).filter fun x => c.velem o.vb.toNat x ≠ 0).length))) }) ∧
  (∀ (i : Issue) (o : FV), EntersPipe (.vPerm i o) i o.cs o.cnt [o.vd.toNat, o.va.toNat, o.vb.toNat] []
    fun k s n =>
      let c := s.core k.site
      let out := (List.range n).filter fun j => n ≤ (c.velem o.vb.toNat j).toNat
      { vd := some o.vd.toNat
        elems := (List.range n).map fun j => (j,
          if (c.velem o.vb.toNat j).toNat < n then cut o (c.velem o.va.toNat (c.velem o.vb.toNat j).toNat) else 0)
        flags := if out = [] then 0 else fInvalid
        lanes := out.length }) ∧
  (∀ (i : Issue) (o : FV), EntersPipe (.vBcast i o) i o.cs o.cnt [o.vd.toNat, o.va.toNat] [o.vb.toNat % 16]
    fun k s n =>
      { vd := some o.vd.toNat
        elems := (List.range n).map fun j => (j,
          cut o ((s.core k.site).velem o.va.toNat ((k.t.reg (o.vb.toNat % 16)).toNat % 4096))) }) ∧
  (∀ (i : Issue) (o : FV) (s : State) (k : Offer),
    Executes (.vTr32 i o) i [countReg o.cs o.cnt] s k → (∀ v ∈ [o.vd.toNat, o.va.toNat], v ∉ (s.core i.site).pendingV) →
    countOf k o.cs o.cnt ≠ 0 → countOf k o.cs o.cnt % 1024 = 0 →
    Completes (.vTr32 i o) s fun t => IssuedWith s t k (k.nextPc k.t) fun c => { c with
      vArith := c.vArith ++ [({
        vd := some o.vd.toNat
        elems := (List.range (countOf k o.cs o.cnt)).map fun j => (j,
          cut o (c.velem o.va.toNat (j / 1024 * 1024 + 32 * (j % 32) + j % 1024 / 32))) } : VecOut).op k.ctx] }) ∧
  (∀ (i : Issue) (o : FV) (s : State) (k : Offer),
    Executes (.vTr32 i o) i [countReg o.cs o.cnt] s k → (∀ v ∈ [o.vd.toNat, o.va.toNat], v ∉ (s.core i.site).pendingV) →
    countOf k o.cs o.cnt % 1024 ≠ 0 → AbortsTask (.vTr32 i o) s i.site k.task k.ctx 0x04) ∧
  (∀ (i : Issue) (o : FV) (s : State) (k : Offer),
    Executes (.vTr32 i o) i [countReg o.cs o.cnt] s k → (∀ v ∈ [o.vd.toNat, o.va.toNat], v ∉ (s.core i.site).pendingV) →
    countOf k o.cs o.cnt = 0 → Completes (.vTr32 i o) s fun t => Issued s t k (k.nextPc k.t)) ∧
  ∀ (i : Issue) (o : FV), EntersPipe (.vIns i o) i o.cs o.cnt [o.vd.toNat] [o.va.toNat % 16, o.vb.toNat % 16]
    fun k _ _ =>
      { vd := some o.vd.toNat
        elems := [((k.t.reg (o.va.toNat % 16)).toNat % 4096,
          cut o (BitVec.ofNat 32 ((k.t.reg (o.vb.toNat % 16)).toNat % 2 ^ 32)))] }

/-- R235, R243, R244, R304: the reductions write one scalar register. Sums of products add chunks of 32 lanes in ascending order to
the initial value in ri, an integer sum saturates at 64 bits, and v.rmax and v.rmin fold in ascending order. That the
initial value of an integer reduction is the signed 64-bit register is the model's choice (log entry 26). -/
def Obligations.VectorReductions : Prop :=
  let lane (s : State) (k : Offer) (v : BitVec 5) (j : Nat) : Word32 := (s.core k.site).velem v.toNat j
  let intSum (o : FVR) (k : Offer) (n : Nat) (f : Nat → Int) : VecOut :=
    let x := (k.t.reg o.ri.toNat).toInt + ((List.range n).map f).sum
    { sd := some (o.rd.toNat, BitVec.ofInt 64 (max (-(2 ^ 63)) (min x (2 ^ 63 - 1))))
      flags := if -(2 ^ 63) ≤ x ∧ x < 2 ^ 63 then 0 else fOverflow }
  let fpSum (o : FVR) (k : Offer) (n : Nat) (p : Nat → Val) (f : Nat → Flags) : VecOut :=
    let y := sumChunks (o.ieee = 1) (initial k o.ri) n p
    { sd := some (o.rd.toNat, (bits32 y.1).setWidth 64)
      flags := (List.range n).foldl (fun a j => a ||| f j) (if (initial k o.ri).isNan then fNan else 0) ||| y.2 }
  let fold (o : FVR) (k : Offer) (s : State) (n : Nat) (fp : Val → Val → Val) (int : Int → Int → Int) : VecOut :=
    if o.ty = 1 then
      { sd := some (o.rd.toNat, BitVec.ofInt 64
          ((List.range n).foldl (fun a j => int a (lane s k o.va j).toInt) (k.t.reg o.ri.toNat).toInt)) }
    else
      { sd := some (o.rd.toNat, (bits32 ((List.range n).foldl (fun a j => fp a (laneVal o.ty (lane s k o.va j)))
          (initial k o.ri))).setWidth 64)
        flags := if (initial k o.ri).isNan || (List.range n).any fun j => (laneVal o.ty (lane s k o.va j)).isNan
          then fNan else 0 }
  (∀ (i : Issue) (o : FVR), EntersPipe (.vSum i o) i o.cs o.cnt [o.va.toNat] [o.rd.toNat, o.ri.toNat] fun k s n =>
    if o.ty = 1 then intSum o k n fun j => (lane s k o.va j).toInt
    else fpSum o k n (fun j => laneVal o.ty (lane s k o.va j))
      fun j => opFlags [laneVal o.ty (lane s k o.va j)] (laneVal o.ty (lane s k o.va j))) ∧
  (∀ (i : Issue) (o : FVR), EntersPipe (.vSsq i o) i o.cs o.cnt [o.va.toNat] [o.rd.toNat, o.ri.toNat] fun k s n =>
    if o.ty = 1 then intSum o k n fun j => (lane s k o.va j).toInt * (lane s k o.va j).toInt
    else
      let v (j : Nat) := laneVal o.ty (lane s k o.va j)
      fpSum o k n (fun j => (v j).mul (v j))
        fun j => opFlags [v j, v j] ((v j).mul (v j))) ∧
  (∀ (i : Issue) (o : FVR), EntersPipe (.vDot i o) i o.cs o.cnt [o.va.toNat, o.vb.toNat] [o.rd.toNat, o.ri.toNat]
    fun k s n =>
      if o.ty = 1 ∧ o.tb = 1 then intSum o k n fun j => (lane s k o.va j).toInt * (lane s k o.vb j).toInt
      else
        let v (j : Nat) := laneVal o.ty (lane s k o.va j)
        let w (j : Nat) := laneVal o.tb (lane s k o.vb j)
        fpSum o k n (fun j => (v j).mul (w j))
          fun j => opFlags [v j, w j] ((v j).mul (w j))) ∧
  (∀ (i : Issue) (o : FVR), EntersPipe (.vRmax i o) i o.cs o.cnt [o.va.toNat] [o.rd.toNat, o.ri.toNat] fun k s n =>
    fold o k s n fmax max) ∧
  (∀ (i : Issue) (o : FVR), EntersPipe (.vRmin i o) i o.cs o.cnt [o.va.toNat] [o.rd.toNat, o.ri.toNat] fun k s n =>
    fold o k s n fmin min) ∧
  (∀ (i : Issue) (o : FVR), EntersPipe (.vMv i o) i o.cs o.cnt [o.va.toNat] [o.rd.toNat] fun k s n =>
    let y := meanVar (o.ieee = 1) (o.u = 1) ((List.range n).map fun j => laneVal o.ty (lane s k o.va j))
    { sd := some (o.rd.toNat, bits32 y.2.1 ++ bits32 y.1), flags := y.2.2 }) ∧
  (∀ (i : Issue) (o : FVR), EntersPipe (.vCnt i o) i o.cs o.cnt [o.va.toNat] [o.rd.toNat] fun k s n =>
    { sd := some (o.rd.toNat, BitVec.ofNat 64 ((List.range n).filter fun j => lane s k o.va j ≠ 0).length) }) ∧
  ∀ (i : Issue) (o : FVR), EntersPipe (.vExt i o) i o.cs o.cnt [o.va.toNat] [o.rd.toNat, o.ri.toNat] fun k s _ =>
    let x := lane s k o.va ((k.t.reg o.ri.toNat).toNat % 4096)
    { sd := some (o.rd.toNat, BitVec.ofNat 64 (if o.ty.toNat < 2 then x.toNat else x.toNat % 65536)) }

/-- R186, R187: rn.word writes the generator's words; rn.drop writes +0 where the word's upper 24 bits lie below the drop
probability, and the product with the keep scale elsewhere. -/
def Obligations.RandomMasks : Prop :=
  let word (s : State) (k : Offer) (o : FRN) (j : Nat) : Word32 :=
    cgWord (match (s.spine k.allot).plan with | some pl => pl.img.jobSeed | none => 0)
      (BitVec.ofNat 16 (k.t.reg o.rk.toNat).toNat) (k.t.reg 2) (BitVec.ofNat 8 ((k.t.reg o.rk.toNat).toNat / 65536))
      (BitVec.ofNat 32 ((k.t.reg o.rb.toNat).toNat + j))
  (∀ (i : Issue) (o : FRN), EntersPipe (.rnWord i o) i o.cs o.cnt [o.vd.toNat] [2, o.rk.toNat, o.rb.toNat] fun k s n =>
    { vd := some o.vd.toNat, elems := (List.range n).map fun j => (j, word s k o j) }) ∧
  ∀ (i : Issue) (o : FRN), EntersPipe (.rnDrop i o) i o.cs o.cnt [o.vd.toNat, o.vs.toNat] [2, o.rk.toNat, o.rb.toNat]
    fun k s n => lanesOf o.vd n fun j =>
      let scale := val32 (BitVec.ofNat 32 ((k.t.reg o.rb.toNat).toNat / 2 ^ 32))
      let u := laneVal o.ty ((s.core k.site).velem o.vs.toNat j)
      if (word s k o j).toNat / 256 < (k.t.reg o.rk.toNat).toNat / 2 ^ 32 % 2 ^ 24 then (0, 0)
      else roundedTo o.ty .rne 0 [u, scale] (u.mul scale)

/-- R234, R240–R242, R258: a vector memory instruction whose descriptor slot holds a tensor of the right access, and whose
elements are in range and reachable, is handed to the memory pipe with its descriptor, its offset or indices, its data
and its rounding key; nothing is written until it completes. -/
def Obligations.VectorMemoryIssue : Prop :=
  let check (mk : Issue → FVM → Instr) (op : VMemOp) : Prop :=
    ∀ (i : Issue) (o : FVM) (s : State) (k : Offer) (d : DescImg) (v : VMem),
      Executes (mk i o) i ([countReg o.cs o.cnt, if op.indexed then 0 else o.ro.toNat] ++
        if o.rm = 2 then [15, 2] else []) s k →
      o.vr.toNat ∉ (s.core i.site).pendingV → (op.indexed = true → o.vx.toNat ∉ (s.core i.site).pendingV) →
      countOf k o.cs o.cnt ≠ 0 → FMap.find o.td.toNat (s.core i.site).tds = some d → d.kind ≠ 2 →
      (op.reads = true → d.access.getLsbD 0 = true) → (op.writes = true → d.access.getLsbD 1 = true) →
      v.op = op → v.vr = o.vr.toNat → v.desc = d → v.off = (k.t.reg o.ro.toNat).toInt.toNat →
      v.idx = (if op.indexed then
        (List.range v.n).map fun j => ((s.core i.site).velem o.vx.toNat j).toInt else []) →
      v.n = countOf k o.cs o.cnt → v.ty = o.ty.toNat → v.rm = o.rm.toNat → v.ieee = decide (o.ieee = 1) →
      v.data = (if op.writes then (List.range v.n).map fun j => (s.core i.site).velem o.vr.toNat j else []) →
      v.key = srKeyOf s k →
      vmemCause s k.allot v (o.bd = 1) (k.t.reg o.ro.toNat).toInt = none →
      Completes (mk i o) s fun t => Launched s t k i.sb op.writes (.vmem v)
  check .vLd .ld ∧ check .vSt .st ∧ check .vGth .gth ∧ check .vSct .sct ∧ check .vSadd .sadd

/-- R103, R105, R143, R305: mx.ldw, mx.pre and sp.prd enter the load path. mx.ldw marks its bank as loading; mx.pre
opens an EMPTY tile with the settings of MX_CFG. -/
def Obligations.LoadPathIssue : Prop :=
  (∀ (i : Issue) (o : FXL) (s : State) (k : Offer) (d : DescImg), Executes (.mxLdw i o) i [o.rt.toNat] s k →
    (s.core i.site).ta.st ≠ .replaying → (s.core i.site).tb.st ≠ .replaying →
    FMap.find o.td.toNat (s.core i.site).tds = some d → d.kind = 2 → d.access.getLsbD 0 = true →
    (k.t.reg o.rt.toNat).toNat < d.tiles → (o.pc ≠ 0 ↔ d.format = 0) →
    (∀ r ∈ tileRanges d (k.t.reg o.rt.toNat).toNat, s.reach k.allot false r = true) →
    Completes (.mxLdw i o) s fun t =>
      EntersLoadPath s t k i.sb
        (.weights o.bk.toNat { desc := d, tile := (k.t.reg o.rt.toNat).toNat, piece := namedPiece o.pc.toNat k.t.pc.toNat })
        fun c => c.setBank o.bk.toNat { c.bank o.bk.toNat with loading := true }) ∧
  (∀ (i : Issue) (o : FXP) (s : State) (k : Offer) (a : Nat), Executes (.mxPre i o) i [o.ra.toNat] s k →
    (s.core i.site).tileBusy o.tl.toNat = false → k.t.reg o.ra.toNat = BitVec.ofNat 64 a → a < 2 ^ 52 →
    ownRange s k a (if o.md = 1 then 128 else 4096) false = true →
    Completes (.mxPre i o) s fun t =>
      EntersLoadPath s t k i.sb (.preload o.tl.toNat { addr := a, bcast := o.md = 1, int := o.ty = 1 })
        fun c => c.setTile o.tl.toNat
          (if (c.tile o.tl.toNat).st = .empty then
            { st := .opened, int := o.ty = 1, task := k.task
              scaleLog2 := c.mxCfg.toNat / 16 % 16, lim := c.mxCfg.toNat % 4 }
          else { c.tile o.tl.toNat with task := k.task })) ∧
  ∀ (i : Issue) (o : FSP) (s : State) (k : Offer) (a b : Nat), Executes (.spPrd i o) i [2, o.ra.toNat, o.rb.toNat] s k →
    k.t.reg o.ra.toNat = BitVec.ofNat 64 a → k.t.reg o.rb.toNat = BitVec.ofNat 64 b → a < 2 ^ 52 → b < 2 ^ 52 →
    ownRange s k a 4096 false = true → ownRange s k b 16 false = true →
    Completes (.spPrd i o) s fun t =>
      EntersLoadPath s t k i.sb (.predict o.tl.toNat a b o.tag (k.t.reg 2)) id

/-- R106, R118, R120: mx.mul takes m present entries of its queue for the tile, streams the rows that enter, read
without an error, through the bank (a bank at +0 reads none), notes a record entry while the record has room, and
counts the products. The tile is OPEN afterwards. -/
def Obligations.MatrixMultiply : Prop :=
  ∀ (i : Issue) (o : FXM) (s : State) (k : Offer) (c : Core) (ents : List QEntry) (t0 : Tile) (rows : List (Nat × Nat))
    (data : Nat → List Byte), Executes (.mxMul i o) i (if o.pd = 1 then [2] else []) s k →
    c = s.core i.site → c.tileBusy o.tl.toNat = false → c.preloading o.tl.toNat = false →
    (c.bank o.bk.toNat).loading = false → (c.queue o.q.toNat).cfg.getLsbD 0 = true → mulReserved c o = false →
    (c.queue o.q.toNat).head (o.m.toNat + 1) = some ents →
    ((c.tile o.tl.toNat).st = .empty → o.pd = 1 → c.prdFbStep = k.t.reg 2 - 1) →
    t0 = (if (c.tile o.tl.toNat).st = .empty then
        c.openTile (intStream o.sf.toNat) k.task (if o.pd = 1 then some (c.effective o.tl.toNat) else none)
      else { c.tile o.tl.toNat with task := k.task }) →
    rows = (((List.range (o.m.toNat + 1)).map fun j => (j, sliceBase i.site + (ents.map fun e => e.pos).getD j 0)).filter
        fun x => t0.audited || o.t = 1 || !t0.inactive (o.r0.toNat + x.1)) →
    ((c.bank o.bk.toNat).empty = false → ∀ x ∈ rows,
      s.Reads k.allot x.2 (rowBytes (c.bank o.bk.toNat) (o.t = 1) o.sf.toNat) (data x.1)) →
    Completes (.mxMul i o) s fun t =>
      let d := t.core i.site
      State.OnlyCore i.site s t ∧ d.thread k.ctx = k.nextPc k.t ∧
      (d.tile o.tl.toNat).st = .opened ∧ (d.tile o.tl.toNat).task = k.task ∧
      d.tile (1 - o.tl.toNat) = c.tile (1 - o.tl.toNat) ∧ d.bank0 = c.bank0 ∧ d.bank1 = c.bank1 ∧
      (d.tile o.tl.toNat).recs = (if t0.recs.length < 64 then t0.recs ++ [{
          src := (c.bank o.bk.toNat).src, bank := o.bk.toNat, t := o.t = 1, sf := o.sf.toNat
          piece := namedPiece o.pc.toNat k.t.pc.toNat
          r0 := o.r0.toNat, m := o.m.toNat + 1, rows := rows }] else t0.recs) ∧
      (d.tile o.tl.toNat).repVoid = (t0.repVoid || decide (64 ≤ t0.recs.length)) ∧
      (d.tile o.tl.toNat).cnt =
        min (t0.cnt + (o.m.toNat + 1) * countPerRow (c.bank o.bk.toNat) (o.t = 1)) (2 ^ 32 - 1) ∧
      (d.tile o.tl.toNat).elems = (t0.streamRows (c.bank o.bk.toNat) (o.t = 1) o.r0.toNat o.sf.toNat
        (namedPiece o.pc.toNat k.t.pc.toNat) 0
        (rows.map fun x => (x.1, data x.1))).elems ∧
      d.queue o.q.toNat = (c.queue o.q.toNat).take ents k.task (some o.tl.toNat)

/-- R107, R176, R306: mx.drn asks for the drain of a tile that is neither draining nor replaying nor being preloaded, when
its target is one the tile may drain to and everything it writes and reads is reachable. The tile keeps the request with
its addresses, and its scoreboard entry is pending.
R156: mk.cap hands its capture to the Vetch unit of the island that holds the tile, behind the earlier ones. -/
def Obligations.DrainAndCaptureIssue : Prop :=
 (∀ (i : Issue) (o : FXD) (s : State) (k : Offer) (c : Core) (td : Option DescImg) (a rs rx : Nat),
    Executes (.mxDrn i o) i ([o.ra.toNat, o.rt.toNat, o.rx.toNat, o.rs.toNat] ++ if o.rm = 2 then [15, 2] else []) s k →
    c = s.core i.site →
    c.tileBusy o.tl.toNat = false → c.preloading o.tl.toNat = false →
    drainTarget (c.tile o.tl.toNat) o.fm.toNat = true →
    td = (if 2 ≤ o.md.toNat then tileDesc c o.td.toNat (k.t.reg o.rt.toNat) else none) →
    (2 ≤ o.md.toNat → td.isSome = true ∧ ((c.tile o.tl.toNat).int = true → (c.tile o.tl.toNat).st = .empty)) →
    k.t.reg o.ra.toNat = BitVec.ofNat 64 a → a < 2 ^ 52 → k.t.reg o.rs.toNat = BitVec.ofNat 64 rs → rs < 2 ^ 52 →
    k.t.reg o.rx.toNat = BitVec.ofNat 64 rx → rx < 2 ^ 52 →
    (td = none → ownRange s k a (32 * rowLen o.fm.toNat) true = true ∧
      (o.fm = 9 → ownRange s k (a + 2048) 32 true = true)) →
    (∀ d, td = some d → d.level ≠ 8 ∧ o.lam.toNat < 8 / d.level ∧
      ownRange s k (a + 4 * d.level * o.lam.toNat * rowLen o.fm.toNat) (4 * d.level * rowLen o.fm.toNat) true = true ∧
      (o.fm = 9 → ownRange s k (a + (2048 + 4 * d.level * o.lam.toNat)) (4 * d.level) true = true) ∧
      s.reach k.allot false ((maskPlane d (k.t.reg o.rt.toNat).toNat).1 + 128 * o.lam.toNat, 128) = true ∧
      ∀ x, (blockBytes d (k.t.reg o.rt.toNat).toNat)[o.lam.toNat]? = some x → s.reach k.allot false (x.1, 1) = true) →
    (o.md = 1 ∨ o.md = 3 → ownRange s k rs (targetLen o.fm.toNat 32) true = true) →
    (o.sw = 1 → ownRange s k rx 1 true = true) →
    (∀ p, (c.tile o.tl.toNat).pred = some p → ownRange s k (p.scoreAddr + 4096) 8 true = true) →
    Completes (.mxDrn i o) s fun t => IssuedWith s t k (k.nextPc (k.t.setSb i.sb.toNat true)) fun c =>
      let d : Drain := { ctx := k.ctx, sb := i.sb.toNat, task := k.task, pc := k.t.pc.toNat, opId := c.nextOp, o := o
                         ra := a, rs := rs, rx := rx, td := td, tile := (k.t.reg o.rt.toNat).toNat, key := srKeyOf s k }
      { c.setTile o.tl.toNat { c.tile o.tl.toNat with task := k.task, drain := some d } with nextOp := c.nextOp + 1 }) ∧
  ∀ (i : Issue) (o : FMK) (s : State) (k : Offer) (pl : Plan) (w : WorkRec) (isl : Nat),
    Executes (.mkCap i o) i [2, o.ra.toNat, o.rb.toNat, o.rc.toNat] s k →
    (s.spine k.allot).plan = some pl → pl.works[(k.t.reg o.ra.toNat).toNat]? = some w →
    isl = w.valueAddr.addr pl.sites / sliceSize / 16 →
    Completes (.mkCap i o) s fun t =>
      (t.island isl).vetch.captures = (s.island isl).vetch.captures ++ [{
        site := i.site, ctx := k.ctx, sb := i.sb.toNat, opId := (s.core i.site).nextOp
        work := (k.t.reg o.ra.toNat).toNat, valueAddr := (k.t.reg o.rb.toNat).toNat
        scaleAddr := (k.t.reg o.rc.toNat).toNat, step := k.t.reg 2 }] ∧
      (∀ j, j ≠ isl → t.island j = s.island j) ∧
      Launched { s with islands := t.islands } t k i.sb true .capture

/-- R261, R262, R308: st.req opens a request behind the earlier ones, st.pop takes the head entry of its queue, and st.rel
releases the first kk + 1 entries, which must be present.
R278, R279, R282: dm.go makes an idle channel of its core ready at the descriptor address, behind the channels ready
before it, those of the same cycle by number;
dm.stop takes a ready channel out of that order, and asks a running one to stop at its next descriptor boundary. That
dm.go drops bits 5:0 of its register and that st.req keeps all 64 bits of src are the model's choices (log entries 36 and
34). -/
def Obligations.StreamAndDmaInstructions : Prop :=
 ((∀ (i : Issue) (o : FST) (s : State) (k : Offer) (q : Queue),
    Executes (.stReq i o) i [2, o.ra.toNat, o.rb.toNat, o.rc.toNat, o.rd.toNat] s k →
    q = (s.core i.site).queue o.q.toNat → q.cfg.getLsbD 0 = true → q.reqs.length < 64 →
    Completes (.stReq i o) s fun t =>
      if (k.t.reg o.rb.toNat).toNat % 2 ^ 32 = 0 then Issued s t k (k.nextPc k.t)
      else IssuedWith s t k (k.nextPc (k.t.setSb i.sb.toNat true)) fun c =>
        c.setQueue o.q.toNat { q with reqs := q.reqs ++ [{
          ctx := k.ctx, sb := i.sb.toNat, task := k.task, pc := k.t.pc.toNat, phase := tePhase (c.task k.task)
          own := (c.run k.task).step, step := k.t.reg 2
          src := (k.t.reg o.ra.toNat).toNat, count := (k.t.reg o.rb.toNat).toNat % 2 ^ 32
          stride := (k.t.reg o.rc.toNat).toInt, deadline := (BitVec.ofNat 32 (k.t.reg o.rd.toNat).toNat).toInt
          fetched := 0, present := 0 }] }) ∧
  (∀ (i : Issue) (o : FQ) (s : State) (k : Offer) (q : Queue) (e : QEntry), Executes (.stPop i o) i [] s k →
    q = (s.core i.site).queue o.q.toNat → q.cfg.getLsbD 0 = true → o.vd.toNat ∉ (s.core i.site).pendingV →
    q.head 1 = some [e] →
    Completes (.stPop i o) s fun t => IssuedWith s t k (k.nextPc (k.t.setSb i.sb.toNat true)) fun c =>
      { c.setQueue o.q.toNat (q.take [e] k.task none) with
        inflight := c.inflight ++ [{ id := c.nextOp, ctx := k.ctx, sb := i.sb.toNat, task := k.task, pc := k.t.pc.toNat
                                     write := false
                                     kind := .pop o.vd.toNat (sliceBase i.site + e.pos) q.esize o.ty.toNat o.q.toNat }]
        nextOp := c.nextOp + 1 }) ∧
  ∀ (i : Issue) (o : FQ) (s : State) (k : Offer) (q : Queue) (l : List QEntry), Executes (.stRel i o) i [] s k →
    q = (s.core i.site).queue o.q.toNat → q.cfg.getLsbD 0 = true → q.head (o.kk.toNat + 1) = some l →
    Completes (.stRel i o) s fun t => IssuedWith s t k (k.nextPc k.t) fun c =>
      c.setQueue o.q.toNat { q with ring := dropReleased (q.ring.map fun e =>
        if l.any fun x => x.pos = e.pos then { e with st := .released } else e) }) ∧
  (∀ (i : Issue) (o : FD) (s : State) (k : Offer) (x : Island), Executes (.dmGo i o) i [2, o.ra.toNat] s k →
    x = s.island (islandOf i.site) → (x.chan o.ch.toNat).owner.toNat = (s.core i.site).rel →
    (x.chan o.ch.toNat).st = .idle →
    Completes (.dmGo i o) s fun t =>
      t.island (islandOf i.site) = { x.setChan o.ch.toNat { x.chan o.ch.toNat with
          st := .ready, stopReq := false, next := k.t.reg o.ra.toNat &&& ~~~63
          starter := some { site := i.site, ctx := k.ctx, sb := i.sb.toNat, task := k.task, pc := k.t.pc.toNat }
          step := k.t.reg 2, readyAt := s.ticks } with
        readyOrder := (t.island (islandOf i.site)).readyOrder } ∧
      x.JoinsReady s.ticks o.ch.toNat (t.island (islandOf i.site)).readyOrder ∧
      (∀ j, j ≠ islandOf i.site → t.island j = s.island j) ∧
      Issued { s with islands := t.islands } t k (k.nextPc (k.t.setSb i.sb.toNat true))) ∧
  ∀ (i : Issue) (o : FD) (s : State) (k : Offer) (x : Island), Executes (.dmStop i o) i [] s k →
    x = s.island (islandOf i.site) → (x.chan o.ch.toNat).owner.toNat = (s.core i.site).rel →
    Completes (.dmStop i o) s fun t =>
      (∀ n, n ≠ o.ch.toNat → (t.island (islandOf i.site)).chan n = x.chan n) ∧
      (t.island (islandOf i.site)).readyOrder = (if (x.chan o.ch.toNat).st = .ready then
        x.readyOrder.filter (· ≠ o.ch.toNat) else x.readyOrder) ∧
      (match (x.chan o.ch.toNat).st with
        | .idle => (t.island (islandOf i.site)).chan o.ch.toNat = x.chan o.ch.toNat
        | .ready => ((t.island (islandOf i.site)).chan o.ch.toNat).st = .idle
        | .running => (t.island (islandOf i.site)).chan o.ch.toNat = { x.chan o.ch.toNat with stopReq := true }) ∧
      (∀ j, j ≠ islandOf i.site → t.island j = s.island j) ∧ t.mem = s.mem ∧ t.hostMem = s.hostMem ∧
      ((t.core i.site).thread k.ctx).pc = k.t.pc + 1 ∧
      ((x.chan o.ch.toNat).st ≠ .ready → Issued { s with islands := t.islands } t k (k.nextPc k.t))

/-- R197, R201, R309: up.acc hands its rows over and counts as outstanding; up.fin, once none is outstanding, sends the
core's end-of-reduction mark of the thread's step to the spine.
R400, R403, R307: pw.ramp starts a ramp of its island's planned level toward bits 31:0 of ra along a curve of the BOUND
section, in place of an earlier ramp, whose scoreboard entry clears; beside a ramp that a core of a higher position has
issued in the same cycle it takes no effect (the commands between two ticks are of one cycle, the model's choice, log
entries 1 and 33); pw.bsel selects the curve of later wind-downs. -/
def Obligations.ReductionAndPowerInstructions : Prop :=
 ((∀ (i : Issue) (o : FU) (s : State) (k : Offer) (u : UpAcc),
    Executes (.upAcc i o) i [2, o.ra.toNat, o.rb.toNat, o.rx.toNat, o.rd.toNat, o.rp.toNat] s k →
    u = { src := (k.t.reg o.ra.toNat).toNat, srcScale := (k.t.reg o.rb.toNat).toNat
          sx := if o.nx = 1 then none else some (k.t.reg o.rx.toNat).toNat, dst := (k.t.reg o.rd.toNat).toNat
          dstScale := if o.pb = 1 then (k.t.reg o.rp.toNat).toNat else (k.t.reg o.rd.toNat).toNat + 2048
          blk := o.blk.toNat, rows := o.rows.toNat + 1, init := o.init = 1, last := o.last = 1, probe := o.pb = 1
          step := k.t.reg 2 } →
    upAccOk s k u = true →
    Completes (.upAcc i o) s fun t => IssuedWith s t k (k.nextPc (k.t.setSb i.sb.toNat true)) fun c =>
      { c with
        inflight := c.inflight ++ [{ id := c.nextOp, ctx := k.ctx, sb := i.sb.toNat, task := k.task, pc := k.t.pc.toNat
                                     write := true
                                     kind := .upAcc u }]
        nextOp := c.nextOp + 1, accOut := c.accOut + 1 }) ∧
  ∀ (i : Issue) (o : FZ) (s : State) (k : Offer), Executes (.upFin i o) i [2] s k → (s.core i.site).accOut = 0 →
    Completes (.upFin i o) s fun t =>
      (t.spine k.allot).marksIn = (s.spine k.allot).marksIn ++ [((s.core i.site).rel, k.t.reg 2)] ∧
      (∀ j, j ≠ k.allot → t.spine j = s.spine j) ∧ Issued { s with spines := t.spines } t k (k.nextPc k.t)) ∧
  (∀ (i : Issue) (o : FPW) (s s' : State) (k : Offer) (g : GovIsland), Executes (.pwRamp i o) i [o.ra.toNat] s k →
    g = (s.island (islandOf i.site)).gov → g.outranks s.ticks (posOf i.site) = false →
    s' = (match g.ramp.bind Ramp.owner with | some (site, ctx, sb) => s.clearSb site ctx sb | none => s) →
    Completes (.pwRamp i o) s fun t =>
      (t.island (islandOf i.site)).gov = { g with ramp := some {
        from_ := g.planned, target := (k.t.reg o.ra.toNat).toNat % 2 ^ 32
        curve := (match (s.spine k.allot).plan with | some pl => pl.boundCurves[o.k.toNat]? | none => none)
        tick := 0, windDown := false, owner := some (i.site, k.ctx, i.sb.toNat), issued := (s.ticks, posOf i.site) } } ∧
      (∀ j, j ≠ islandOf i.site → t.island j = s.island j) ∧
      Issued { s' with islands := t.islands } t k
        (k.nextPc (((s'.core i.site).thread k.ctx).setSb i.sb.toNat true))) ∧
  (∀ (i : Issue) (o : FPW) (s : State) (k : Offer) (r : Ramp), Executes (.pwRamp i o) i [o.ra.toNat] s k →
    (s.island (islandOf i.site)).gov.ramp = some r → r.windDown = false → r.issued.1 = s.ticks →
    posOf i.site < r.issued.2 → Completes (.pwRamp i o) s fun t => Issued s t k (k.nextPc k.t)) ∧
  ∀ (i : Issue) (o : FPW) (s : State) (k : Offer), Executes (.pwBsel i o) i [] s k →
    Completes (.pwBsel i o) s fun t =>
      (t.island (islandOf i.site)).gov = { (s.island (islandOf i.site)).gov with bsel := o.k.toNat } ∧
      (∀ j, j ≠ islandOf i.site → t.island j = s.island j) ∧
      Issued { s with islands := t.islands } t k (k.nextPc k.t)

/-- R293, R46, R47, R59, R294, R49: what an offer does that does not execute, for every instruction row. A squashed
instruction only moves on. A thread parked at a barrier or by its wait mask stalls, and so does an instruction whose
scoreboard entry is pending or one of whose scalar registers an earlier instruction has still to write: the wheel stays at
its entry and counts a stall cycle. A vector instruction also stalls for a vector register (R228). A reserved word aborts
the task with cause 0x04, whatever the rest of it says (R56–R58). -/
def Obligations.OffersThatDoNotExecute : Prop :=
  (∀ (x : Instr) (i : Issue) (cl op : Nat) (b : BitVec 39) (s : State) (k : Offer), parts x = some (cl, op, i, b) →
    (Offered x i s k → k.t.pred i.pr.toNat = decide (i.pn = 1) → Completes x s fun t => Issued s t k (k.nextPc k.t)) ∧
    (Reached x i s k → k.t.waiting ≠ none ∨ k.t.sbs &&& i.wm ≠ 0 → Stalls x i s) ∧
    (Offered x i s k → k.t.pred i.pr.toNat ≠ decide (i.pn = 1) → namesSb x = true → k.t.sbPending i.sb.toNat = true →
      Stalls x i s)) ∧
  (let waits (x : Instr) (i : Issue) (regs : List Nat) : Prop :=
    ∀ (s : State) (k : Offer), Offered x i s k → k.t.pred i.pr.toNat ≠ decide (i.pn = 1) →
      (namesSb x = true → k.t.sbPending i.sb.toNat = false) →
      (∃ r ∈ regs, r ≠ 0 ∧ r ∈ (s.core i.site).pendingRegs k.ctx) → Stalls x i s
   (∀ (i : Issue) (o : FS),
    (∀ mk ∈ [Instr.scAdd, .scSub, .scMul, .scAnd, .scOr, .scXor, .scShl, .scShr, .scShru, .scMin, .scMax, .scMinu,
      .scMaxu, .scLi, .scSli, .scLd, .scLdw, .scSt, .scStw], waits (mk i o) i [o.rd.toNat, o.ra.toNat, o.rb.toNat]) ∧
    (∀ mk ∈ [Instr.scCeq, .scCne, .scClt, .scCle, .scCltu, .scCleu], waits (mk i o) i [o.ra.toNat, o.rb.toNat]) ∧
    ∀ mk ∈ [Instr.scCsr, .scFlg, .scFlgc], waits (mk i o) i [o.rd.toNat]) ∧
   (∀ (i : Issue) (o : FB), waits (.ctlJal i o) i [o.rd.toNat] ∧ waits (.ctlJr i o) i [o.ra.toNat]) ∧
   (∀ (i : Issue) (o : FK), waits (.ctlSig i o) i [2, o.ra.toNat]) ∧
   (∀ (i : Issue) (o : FST), waits (.stReq i o) i [2, o.ra.toNat, o.rb.toNat, o.rc.toNat, o.rd.toNat]) ∧
   (∀ (i : Issue) (o : FD), waits (.dmGo i o) i [2, o.ra.toNat]) ∧
   (∀ (i : Issue) (o : FXL), waits (.mxLdw i o) i [o.rt.toNat]) ∧
   (∀ (i : Issue) (o : FXP), waits (.mxPre i o) i [o.ra.toNat]) ∧
   (∀ (i : Issue) (o : FXM), o.pd = 1 → waits (.mxMul i o) i [2]) ∧
   (∀ (i : Issue) (o : FXD), waits (.mxDrn i o) i [o.ra.toNat, o.rt.toNat, o.rx.toNat, o.rs.toNat] ∧
    (o.rm = 2 → waits (.mxDrn i o) i [15, 2])) ∧
   (∀ (i : Issue) (o : FSP), waits (.spPrd i o) i [2, o.ra.toNat, o.rb.toNat]) ∧
   (∀ (i : Issue) (o : FMK), waits (.mkCap i o) i [2, o.ra.toNat, o.rb.toNat, o.rc.toNat]) ∧
   (∀ (i : Issue) (o : FU), waits (.upAcc i o) i [2, o.ra.toNat, o.rb.toNat, o.rx.toNat, o.rd.toNat, o.rp.toNat]) ∧
   (∀ (i : Issue) (o : FZ), waits (.upFin i o) i [2]) ∧
   (∀ (i : Issue) (o : FPW), waits (.pwRamp i o) i [o.ra.toNat]) ∧
   (∀ (i : Issue) (o : FRN), ∀ mk ∈ [Instr.rnDrop, .rnWord],
    waits (mk i o) i [countReg o.cs o.cnt, 2, o.rk.toNat, o.rb.toNat]) ∧
   (∀ (i : Issue) (o : FV),
    (∀ mk ∈ [Instr.vAdd, .vSub, .vMul, .vMax, .vMin, .vDiv, .vIadd, .vIsub, .vImul, .vAnd, .vOr, .vXor, .vShl, .vShr,
      .vShru, .vCeq, .vCne, .vClt, .vCle, .vCgt, .vCge, .vCun, .vFma, .vSel],
      waits (mk i o) i (countReg o.cs o.cnt :: ((if o.bs = 1 then [o.vb.toNat % 16] else []) ++
        if o.rm = 2 then [15, 2] else []))) ∧
    (∀ mk ∈ [Instr.vAbs, .vNeg, .vSqrt, .vExp2, .vLog2, .vCvt],
      waits (mk i o) i (countReg o.cs o.cnt :: if o.rm = 2 then [15, 2] else [])) ∧
    waits (.vPack i o) i [countReg o.cs o.cnt, o.vc.toNat % 16] ∧
    (∀ mk ∈ [Instr.vUnpk, .vPerm, .vTr32], waits (mk i o) i [countReg o.cs o.cnt]) ∧
    waits (.vBcast i o) i [countReg o.cs o.cnt, o.vb.toNat % 16] ∧
    waits (.vIns i o) i [countReg o.cs o.cnt, o.va.toNat % 16, o.vb.toNat % 16]) ∧
   (∀ (i : Issue) (o : FVR),
    (∀ mk ∈ [Instr.vSum, .vSsq, .vDot, .vRmax, .vRmin, .vExt],
      waits (mk i o) i [countReg o.cs o.cnt, o.rd.toNat, o.ri.toNat]) ∧
    ∀ mk ∈ [Instr.vMv, .vCnt], waits (mk i o) i [countReg o.cs o.cnt, o.rd.toNat]) ∧
   ∀ (i : Issue) (o : FVM),
    (∀ mk ∈ [Instr.vLd, .vSt], waits (mk i o) i [countReg o.cs o.cnt, o.ro.toNat]) ∧
    (∀ mk ∈ [Instr.vGth, .vSct, .vSadd], waits (mk i o) i [countReg o.cs o.cnt])) ∧
  (∀ (i : Issue) (o : FV) (s : State) (k : Offer), Executes (.vAdd i o) i
      (countReg o.cs o.cnt :: ((if o.bs = 1 then [o.vb.toNat % 16] else []) ++ if o.rm = 2 then [15, 2] else [])) s k →
    o.vd.toNat ∈ (s.core i.site).pendingV ∨ o.va.toNat ∈ (s.core i.site).pendingV → Stalls (.vAdd i o) i s) ∧
  ∀ (x : Instr) (i : Issue) (cl op : Nat) (b : BitVec 39) (s : State) (c : Core) (p task : Nat),
    parts x = some (cl, op, i, b) → s.Up → i.site < 576 → c = s.core i.site →
    s.wheelRuns i.site = true → (c.thread c.wheelCtx).st = .active → s.allotOfSite i.site = some p →
    c.taskOf c.wheelCtx = some task → reservedWord (c.word (c.thread c.wheelCtx).pc.toNat) = true →
    AbortsTask x s i.site task c.wheelCtx 0x04

/-! ### Tasks, signals and memory -/

/-- R45, R54: a pending task whose contexts are not ACTIVE starts when the wheel reaches it: every context of its range is
ACTIVE at entry_pc with s1 to s4 set, every other register, predicate and flag zero, and the task runs with its step. A
restart comes before a later firing. TRIGGER_FIRE takes trig_count from the slot and makes the firing pending.
R52, R56–R58: when a stalled entry reaches its watchdog limit, the task of its context aborts with cause 0x05; a task that
may retry restarts with its step and the wheel moves on, and the step of any other is abandoned. That a restart comes before
a later firing is the model's choice (log entry 18), and so is that the watchdog asks only for a stalled wheel (log
entry 10).
R60, R61: a signal whose writes are complete, and that no earlier signal of its sender to its slot precedes, adds its
count to the slot, which takes the signal's step when it was empty. -/
def Obligations.TasksAndSignals : Prop :=
 ((∀ (s : State) (site task : Nat) (n : Word) (c : Core), s.Up → site < 576 → c = s.core site →
    s.wheelRuns site = true → c.taskOf c.wheelCtx = some task → (c.thread c.wheelCtx).st ≠ .active →
    (c.run task).live = false → ((c.run task).restart.or (c.run task).pending) = some n →
    Completes (.taskStart site) s fun t =>
      t = { s with cores := t.cores, islands := t.islands } ∧ (∀ j, j ≠ site → t.core j = s.core j) ∧
      (∀ j, j ≠ islandOf site → t.island j = s.island j) ∧
      (∀ k, k < teCount (c.task task) → (t.core site).thread (teFirst (c.task task) + k) =
        { st := .active, pc := BitVec.ofNat 14 (teEntryPc (c.task task))
          regs := [(1, BitVec.ofNat 64 (teArg (c.task task))), (2, n), (3, BitVec.ofNat 64 k), (4, BitVec.ofNat 64 c.rel)] }) ∧
      (∀ j, (j < teFirst (c.task task) ∨ teFirst (c.task task) + teCount (c.task task) ≤ j) →
        (t.core site).thread j = c.thread j) ∧
      (t.core site).run task = { c.run task with
        live := true, step := n, restart := none
        pending := if (c.run task).restart.isSome then (c.run task).pending else none }) ∧
  ∀ (s : State) (site task : Nat) (c : Core), s.Up → site < 576 → task < 32 → c = s.core site →
    c.bound = true → c.hold = false → teTrigger (c.task task) = 1 →
    teTrigCount (c.task task) ≤ (FMap.getD c.slots (teTrigSlot (c.task task)) {}).count →
    (c.run task).pending = none → (c.run task).restart = none →
    Completes (.triggerFire site task) s fun t =>
      let x := FMap.getD c.slots (teTrigSlot (c.task task)) {}
      let y : Slot := { x with count := x.count - teTrigCount (c.task task) }
      let c1 : Core := { c with slots := FMap.insert (teTrigSlot (c.task task)) y c.slots }
      t = s.setCore site (c1.setRun task { c.run task with pending := some x.step })) ∧
 (∀ (s : State) (site task p : Nat) (c : Core), s.Up → site < 576 → c = s.core site → s.wheelRuns site = true →
    c.stall = true → (c.thread c.wheelCtx).st = .active → s.allotOfSite site = some p →
    c.taskOf c.wheelCtx = some task →
    AbortsTask (.wheelWatchdog site) s site task c.wheelCtx 0x05 ∧
    (teIdem (c.task task) = true → (c.run task).retries < teRetryLimit (c.task task) →
      Completes (.wheelWatchdog site) s fun t => (t.core site).waited = 0 ∧ (t.core site).stall = false)) ∧
  ∀ (s : State) (index p : Nat) (g : Signal) (x : Slot), s.Up → s.signals[index]? = some g → g.ready s = true →
    (∀ h ∈ s.signals.take index, ¬ (h.src = g.src ∧ h.dst = g.dst ∧ h.slot = g.slot)) →
    s.allotOfSite g.dst = some p → x = FMap.getD (s.core g.dst).slots g.slot {} →
    (x.count = 0 ∨ x.step = g.step) → x.count + g.n ≤ 65535 →
    Completes (.signalDelivery index) s fun t =>
      let c := s.core g.dst
      t = { s with signals := s.signals.eraseIdx index }.setCore g.dst
        { c with slots := FMap.insert g.slot { count := x.count + g.n, step := g.step } c.slots }

/-- R46, R228, R300: the oldest operation of a context on a scoreboard entry completes. A scalar store writes its bytes
at its address and no other byte; a scalar load that meets no error writes its register. The operation leaves the list
of those in flight, and the entry clears.
R351: a load through the host window is translated by the window table as it stood when the load issued. -/
def Obligations.ScalarAccessCompletes : Prop :=
  (∀ (s : State) (site ctx sb p a ph : Nat) (o : MemOp) (data : List Byte), s.Up → site < 576 →
    sb < 8 → (s.core site).inflight.find? (fun o => o.ctx = ctx && o.sb = sb) = some o → o.kind = .store a data →
    s.allotOfSite site = some p → s.resolveRange p a data.length true = some [(.dev ph, data.length)] →
    (s.port p).ideInsecure = 0 → s.injected = [] →
    Completes (.memoryAccessComplete site ctx sb .clean) s fun t =>
      (∀ b, ¬ (ph ≤ b ∧ b < ph + data.length) → readByte t.mem b = readByte s.mem b) ∧
      (∀ j x, data[j]? = some x → readByte t.mem (ph + j) = x) ∧ (ph < sramEnd → t.hostMem = s.hostMem) ∧
      ((t.core site).thread ctx).sbPending sb = false ∧
      (t.core site).inflight = (s.core site).inflight.filter fun x => x.id ≠ o.id) ∧
  (∀ (s : State) (site ctx sb p a ph rd : Nat) (w32 : Bool) (o : MemOp), s.Up → site < 576 → sb < 8 →
    (s.core site).inflight.find? (fun o => o.ctx = ctx && o.sb = sb) = some o → o.kind = .load rd a w32 →
    s.allotOfSite site = some p →
    s.resolveRange p a (if w32 then 4 else 8) false = some [(.dev ph, if w32 then 4 else 8)] →
    s.poisoned ph (if w32 then 4 else 8) = false → s.injected = [] → (s.port p).ideInsecure = 0 →
    Completes (.memoryAccessComplete site ctx sb .clean) s fun t =>
      State.OnlyCore site s t ∧ (∀ j, j ≠ ctx → (t.core site).thread j = (s.core site).thread j) ∧
      (t.core site).thread ctx = (((s.core site).thread ctx).setReg rd
        (BitVec.ofNat 64 (ofLe (Memory.read s.mem ph (if w32 then 4 else 8))))).setSb sb false ∧
      (t.core site).inflight = (s.core site).inflight.filter fun x => x.id ≠ o.id) ∧
  ∀ (s : State) (site ctx sb p a h rd : Nat) (w32 : Bool) (o : MemOp), s.Up → site < 576 → sb < 8 →
    (s.core site).inflight.find? (fun o => o.ctx = ctx && o.sb = sb) = some o → o.kind = .load rd a w32 →
    s.allotOfSite site = some p → region a = .window p → a % (if w32 then 4 else 8) = 0 →
    translate { s.port p with win := o.win.getD (s.port p).win } p a false = some h → s.injected = [] →
    (s.port p).ideInsecure = 0 →
    Completes (.memoryAccessComplete site ctx sb .clean) s fun t =>
      ((t.core site).thread ctx).reg rd = (if rd = 0 then 0
        else BitVec.ofNat 64 (ofLe (Memory.read s.hostMem h (if w32 then 4 else 8)))) ∧ t.ports = s.ports

/-- R229, R245, R90: VECTOR_COMPLETE takes the oldest instruction out of the arithmetic pipe: its lanes reach vd, its
scalar result its register, its flags the flag word, and its invalid lanes VEC_LANE, which saturates. Every other
element of every vector register is as before (R231). -/
def Obligations.VectorResultIsDelivered : Prop :=
  ∀ (s : State) (site : Nat) (v : VecOp) (rest : List VecOp), s.Up → site < 576 → (s.core site).vArith = v :: rest →
    v.elems.Pairwise (fun a b => a.1 ≠ b.1) →
    Completes (.vectorComplete site) s fun t =>
      State.OnlyCore site s t ∧ (t.core site).vArith = rest ∧
      (t.core site).vecLane.toNat = min ((s.core site).vecLane.toNat + v.lanes) (2 ^ 32 - 1) ∧
      (∀ j, j ≠ v.ctx → (t.core site).thread j = (s.core site).thread j) ∧
      (t.core site).thread v.ctx = (let th := (s.core site).thread v.ctx
        let th1 := { th with flags := th.flags ||| v.flags }
        match v.sd with | some (r, x) => th1.setReg r x | none => th1) ∧
      match v.vd with
      | none => (t.core site).vregs = (s.core site).vregs
      | some d => (∀ e, e ∈ v.elems → e.1 < 4096 → (t.core site).velem d e.1 = e.2) ∧
        ∀ r j, j < 4096 → (∀ e ∈ v.elems, e.1 < 4096) → (r ≠ d ∨ ∀ e ∈ v.elems, e.1 ≠ j) →
          (t.core site).velem r j = (s.core site).velem r j

/-! ### The matrix array, streams and DMA -/

/-- R103, R105, R134, R143: the transfer at the head of the load path acts when it completes: a weight tile that is not
pending fills its bank, a preload sets the tile's elements, sp.prd sets the predict register. It leaves the load path
and its scoreboard entry clears. -/
def Obligations.LoadPathCompletes : Prop :=
  ∀ (s : State) (site p : Nat) (check : ReadCheck) (o : LoadOp) (rest : List LoadOp), s.Up → site < 576 →
    (s.core site).loadPath = o :: rest → s.allotOfSite site = some p → o.win = none →
    (∀ b src s1 bk, o.kind = .weights b src → b < 2 →
      tilePending s p src.desc src.tile ((s.core site).run o.task).step = false →
      loadBank s p src check = (.bank bk, s1) → s1.fenceDue = [] → s1.cores = s.cores →
      Completes (.tileLoadComplete site check) s fun t =>
        State.OnlyCore site s1 t ∧ (t.core site).loadPath = rest ∧
        (t.core site).bank b = { bk with loading := rest.any fun x => x.kind.loads b } ∧
        ((t.core site).thread o.ctx).sbPending o.sb = false ∧
        (t.core site).ta = (s.core site).ta ∧ (t.core site).tb = (s.core site).tb) ∧
    (∀ tl src l s1, o.kind = .preload tl src → tl < 2 →
      s.readCk p src.addr (if src.bcast then 128 else 4096) check = (.data l, s1) →
      s1.fenceDue = [] → s1.cores = s.cores →
      Completes (.tileLoadComplete site check) s fun t =>
        State.OnlyCore site s1 t ∧ (t.core site).loadPath = rest ∧
        ((t.core site).thread o.ctx).sbPending o.sb = false ∧
        ((t.core site).tile tl).elems = preloadElems src 0 l ∧ ((t.core site).tile tl).int = src.int ∧
        ((t.core site).tile tl).recs = [] ∧ ((t.core site).tile tl).pre = some src ∧
        (t.core site).tile (1 - tl) = (s.core site).tile (1 - tl)) ∧
    (∀ tl a b tag step la lb s1 s2, o.kind = .predict tl a b tag step → s.readCk p a 4096 check = (.data la, s1) →
      s1.readCk p b 16 .clean = (.data lb, s2) → s2.fenceDue = [] → s2.cores = s.cores →
      Completes (.tileLoadComplete site check) s fun t =>
        State.OnlyCore site s2 t ∧ (t.core site).loadPath = rest ∧
        (t.core site).pred tl = some (predOf la lb a tag step) ∧ (t.core site).ta = (s.core site).ta ∧
        (t.core site).tb = (s.core site).tb)

/-- R108, R121: a drain that may begin becomes a replay when the tile overflowed, its record is whole and it has
replays left; nothing but the tile changes. A plain drain of any other tile without a predicate, copy or scale
exponent writes only its 32 rows, and for format 9 its 32 scale bytes, and the tile is DRAINING. R121, R123: an
overflow replay recomputes the tile from its record at growing right shifts until it does not overflow or its replays
are used; sx is minus the replays times scale_log2, and the drain follows. Stated for a drain without compaction.
R107, R120, R147: when the last row of a drain is written the tile is EMPTY, the queue entries it held are released,
and the scoreboard entry clears. A predicted mx.mul that would issue opens an EMPTY tile once PRD_FBSTEP shows the
step before. R194: a drain with compaction counts in CDRN; R109: an EMPTY tile drains zeros with sx 0. That the rows are written
when the drain starts, and that one command makes all passes of a replay, are the model's choices (log entry 28). -/
def Obligations.Drains : Prop :=
 (∀ (s : State) (site tl p : Nat) (d : Drain) (x : Tile), s.Up → site < 576 → tl < 2 → x = (s.core site).tile tl →
    x.drain = some d → s.allotOfSite site = some p → drainReady s site p tl d = true →
    if x.st = .opened ∧ x.ovf = true ∧ x.repVoid = false ∧ x.replays < x.lim then
      exec (.drainStart site tl) s = .next (s.setCore site ((s.core site).setTile tl { x with st := .replaying }))
    else d.td = none → d.o.md = 0 → d.o.sw = 0 → x.pred = none → d.o.fm.toNat ≤ 9 → d.o.fm ≠ 8 → s.injected = [] →
      sliceBase site ≤ d.ra → d.ra + targetLen d.o.fm.toNat 32 ≤ sliceBase site + sliceSize →
      Completes (.drainStart site tl) s fun t =>
        ((t.core site).tile tl).st = .draining ∧ ((t.core site).tile tl).elems = x.elems ∧
        (x.st = .opened → ((t.core site).tile tl).sat = (x.sat || x.ovf)) ∧
        (x.st = .empty → ((t.core site).tile tl).sx = 0 ∧ ((t.core site).tile tl).replays = 0) ∧
        (t.core site).tile (1 - tl) = (s.core site).tile (1 - tl) ∧ (t.core site).threads = (s.core site).threads ∧
        (∀ b, ¬ (d.ra ≤ b ∧ b < d.ra + targetLen d.o.fm.toNat 32) → readByte t.mem b = readByte s.mem b) ∧
        t.hostMem = s.hostMem) ∧
 (∀ (s s1 s2 : State) (site tl p : Nat) (d : Drain) (x x1 : Tile), s.Up → site < 576 → tl < 2 → x = (s.core site).tile tl →
    x.drain = some d → x.st = .replaying → s.allotOfSite site = some p → (s.core site).loadPath = [] →
    replayPasses site p tl d 3 x s = (.ok x1, s1) → restoreBanks site p s1 = (.ok (), s2) → s2.fenceDue = [] →
    s2.injected = [] → d.td = none →
    Completes (.overflowReplay site tl) s fun t =>
      ((t.core site).tile tl).st = .draining ∧ ((t.core site).tile tl).replays = x1.replays ∧
      ((t.core site).tile tl).sx = -((x1.replays * x1.scaleLog2 : Nat) : Int) ∧
      ((t.core site).tile tl).sat = (x1.sat || x1.ovf) ∧ ((t.core site).tile tl).elems = x1.elems ∧
      (t.core site).tile (1 - tl) = (s.core site).tile (1 - tl) ∧ (t.core site).bank0 = (s2.core site).bank0 ∧
      (t.core site).bank1 = (s2.core site).bank1) ∧
  (∀ (s : State) (site tl : Nat) (d : Drain) (c : Core), s.Up → site < 576 → tl < 2 → c = s.core site →
    (c.tile tl).drain = some d → (c.tile tl).st = .draining → d.sb < 8 →
    Completes (.drainComplete site tl) s fun t =>
      State.OnlyCore site s t ∧ ((t.core site).tile tl).st = .empty ∧ ((t.core site).tile tl).drain = none ∧
      ((t.core site).tile tl).elems = [] ∧ (t.core site).tile (1 - tl) = c.tile (1 - tl) ∧
      (t.core site).queues = c.queues.map (fun (x : Nat × Queue) => (x.1, { x.2 with ring := dropReleased (x.2.ring.map
        fun e => if e.st = .taken && e.tile = some tl then { e with st := .released } else e) })) ∧
      (t.core site).thread d.ctx = (c.thread d.ctx).setSb d.sb false ∧
      (t.core site).cdrn = (if d.td.isSome then satAdd c.cdrn 1 else c.cdrn)) ∧
  ∀ (s : State) (site tl task : Nat) (i : Issue) (o : FXM) (c : Core) (th : Thread) (ents : List QEntry), s.Up →
    site < 576 → tl < 2 →
    c = s.core site → th = c.thread c.wheelCtx → s.wheelRuns site = true → th.st = .active →
    decode site (c.word th.pc.toNat) = some (.mxMul i o) → c.taskOf c.wheelCtx = some task → o.pd = 1 →
    reservedWord (c.word th.pc.toNat) = false → th.waiting = none → th.sbs &&& i.wm = 0 →
    th.pred i.pr.toNat ≠ decide (i.pn = 1) → c.preloading tl = false → (c.bank o.bk.toNat).loading = false →
    (c.queue o.q.toNat).cfg.getLsbD 0 = true → (c.queue o.q.toNat).head (o.m.toNat + 1) = some ents →
    mulReserved c o = false → 2 ∉ c.pendingRegs c.wheelCtx →
    o.tl.toNat = tl → (c.tile tl).st = .empty → c.tileBusy tl = false → c.prdFbStep = th.reg 2 - 1 →
    exec (.predictedTileOpen site tl) s = .next (s.setCore site (c.setTile tl {
      st := .opened, int := o.sf = 5 || o.sf = 6, task := task, pred := some (c.effective tl)
      scaleLog2 := c.mxCfg.toNat / 16 % 16, lim := c.mxCfg.toNat % 4 }))

/-- R262–R264: the stream unit fetches the next entry of the queue it chooses, at src + fetched × stride, into the
next ring position. When a fetch ends, the entry's bytes stand in the slice, the entry is PRESENT, and the last entry
of a request closes it. -/
def Obligations.StreamUnit : Prop :=
  (∀ (s : State) (site k : Nat) (paths : BitVec 16) (q : Queue) (r : StReq), s.Up → site < 576 →
    chooseQueue (s.island (islandOf site)) (s.core site) paths = some k → q = (s.core site).queue k → q.fetchable = some r →
    0 ≤ (r.src : Int) + r.fetched * r.stride →
    exec (.streamEntryFetch { site, paths }) s = .next (s.setCore site ((s.core site).setQueue k { q with
      reqs := updateFirst (fun r => r.fetched < r.count) (fun r => { r with fetched := r.fetched + 1 }) q.reqs
      ring := q.ring ++ [{ pos := q.cfg.toNat / 2 ^ 44 * 64 + q.next * q.esize
                           src := ((r.src : Int) + r.fetched * r.stride).toNat, st := .fetching, task := r.task
                           tile := none, flushed := false }]
      next := (q.next + 1) % q.depth }))) ∧
  ∀ (s s1 : State) (site k p : Nat) (q : Queue) (e : QEntry) (r : StReq) (check : ReadCheck) (l : List Byte),
    s.Up → site < 576 → k < 16 → q = (s.core site).queue k → q.ring.find? (fun e => e.st = .fetching) = some e →
    q.reqs.find? (fun r => r.present < r.count) = some r → s.allotOfSite site = some p →
    e.win = none → s.readCk p e.src q.esize check = (.data l, s1) → s1.fenceDue = [] → s1.injected = [] →
    s1.cores = s.cores →
    Completes (.streamEntryPresent site k check) s fun t =>
      t.mem = (s1.poke p (sliceBase site + e.pos) l).mem ∧
      ((t.core site).queue k).ring = markPresent q.ring ∧
      (r.present + 1 < r.count →
        ((t.core site).queue k).reqs = updateFirst (fun r => r.present < r.count)
          (fun _ => { r with present := r.present + 1 }) q.reqs ∧ (t.core site).threads = (s.core site).threads) ∧
      (r.present + 1 = r.count → r.sb < 8 → ((t.core site).thread r.ctx).sbPending r.sb = false)

/-- R279–R282: an engine fetches one descriptor of the channel it serves. One whose own bit is 0 ends the chain with end 1
and is not written. One that ends with code 0 is written back with its check, lengths and status, and the chain goes on
at next, or ends with 2 when next is 0 or it asks to halt, or with 4 on a stop.
R278, R282: the resident operating system starts an idle channel of an island of its allotment by setting go, and
stops one by setting stop: a running one at its next descriptor boundary, a ready one at once; a stop of an idle one
changes nothing. A go on a channel that is not idle only sets go_lost. That it may start a channel whoever owns it, and what
becomes of a descriptor without its own bit, are the model's choices (log entries 37 and 36). -/
def Obligations.DmaChannels : Prop :=
 (∀ (s s1 : State) (isl n p : Nat) (x : Island) (c : Chan) (check : ReadCheck) (l : List Byte), s.Up → isl < 36 →
    (s.island isl).serve = some (n, x) → c = x.chan n → s.allotOfIsland isl = some p →
    (s.setIsland isl x).readCk p (c.next.toNat / 64 * 64) 64 .clean = (.data l, s1) → s1.fenceDue = [] →
    ((DmaDesc.ofBytes l).own = false →
      Completes (.dmaDescriptor isl check) s fun t =>
        t.mem = s1.mem ∧ ((t.island isl).chan n).st = .idle ∧ ((t.island isl).chan n).ending = 1) ∧
    ∀ (d : DmaDesc) (r : DmaDone), d = DmaDesc.ofBytes l → d.own = true →
      r = dmaOp s1 p (c.starter.map Starter.site) d check → r.code = 0 → r.s.fenceDue = [] → r.s.injected = [] →
      (r.s.island isl).chan n = c →
      Completes (.dmaDescriptor isl check) s fun t =>
        t.mem = (writeBack (if d.op = 2 ∧ isStash s1 p isl d.src.toNat d.dst.toNat = true then
          r.s.modIsland isl fun x => x.countSpill r.bytes.length r.dense else r.s) p (c.next.toNat / 64 * 64) d r).mem ∧
        ((t.island isl).chan n).next = d.next ||| (c.next &&& 1) ∧
        (if c.stopReq then ((t.island isl).chan n).st = .idle ∧ ((t.island isl).chan n).ending = 4
         else if d.next = 0 ∨ d.flags.testBit 5 then ((t.island isl).chan n).st = .idle ∧ ((t.island isl).chan n).ending = 2
         else ((t.island isl).chan n).st = .running)) ∧
  ∀ (s : State) (isl n q : Nat), s.Up → isl < 36 → n < 32 → s.allotOfIsland isl = some q →
    (s.island isl).clockLost = false →
    (((s.island isl).chan n).st = .idle →
      Completes (.dmaChGo (.os q) isl n) s fun t =>
        ((t.island isl).chan n).st = .ready ∧ ((t.island isl).chan n).next = ((s.island isl).chan n).next ∧
        ((t.island isl).chan n).starter = none ∧
        (s.island isl).JoinsReady s.ticks n (t.island isl).readyOrder ∧ t.mem = s.mem ∧ t.cores = s.cores) ∧
    (((s.island isl).chan n).st ≠ .idle →
      Completes (.dmaChGo (.os q) isl n) s fun t =>
        ((t.island isl).chan n).goLost = true ∧ ((t.island isl).chan n).st = ((s.island isl).chan n).st ∧
        (t.island isl).readyOrder = (s.island isl).readyOrder ∧ t.mem = s.mem ∧ t.cores = s.cores) ∧
    (((s.island isl).chan n).st = .running →
      Completes (.dmaChStop (.os q) isl n) s fun t =>
        ((t.island isl).chan n).stopReq = true ∧ ((t.island isl).chan n).st = .running ∧ t.mem = s.mem ∧
        t.cores = s.cores) ∧
    (((s.island isl).chan n).st = .ready →
      Completes (.dmaChStop (.os q) isl n) s fun t =>
        ((t.island isl).chan n).st = .idle ∧ (t.island isl).readyOrder = (s.island isl).readyOrder.filter (· ≠ n) ∧
        t.mem = s.mem) ∧
    (((s.island isl).chan n).st = .idle →
      Completes (.dmaChStop (.os q) isl n) s fun t =>
        (t.island isl).chan n = (s.island isl).chan n ∧ (t.island isl).readyOrder = (s.island isl).readyOrder ∧
        t.mem = s.mem ∧ t.cores = s.cores)

/-! ### Reduction, verdict and update -/

/-- R199–R202: an up.acc that the destination slice applies sends one report and is outstanding no longer. A report of
the open step joins the norm accumulator exactly, and the count of non-finite blocks; a probe report changes nothing. A
mark of the open step marks its core as done. -/
def Obligations.ReductionReachesSpine : Prop :=
  (∀ (s : State) (site ctx sb p : Nat) (o : MemOp) (u : UpAcc), s.Up → site < 576 → sb < 8 → s.injected = [] →
    (s.core site).inflight.find? (fun o => match o.kind with | .upAcc _ => o.ctx = ctx && o.sb = sb | _ => false) = some o →
    o.kind = .upAcc u → o.win = none → s.allotOfSite site = some p → (u.probe = true ∨ bufferPending s p u.dst = false) →
    (applyUpAcc s site p u .clean).cause = none →
    Completes (.upAccApply site ctx sb .clean) s fun t =>
      (∃ rep, (t.spine p).reports = (s.spine p).reports ++ [rep] ∧ rep.core = (s.core site).rel ∧ rep.step = u.step ∧
        rep.probe = u.probe ∧ (u.last = false ∨ u.probe = true → rep.q = 0)) ∧
      (t.core site).accOut = (s.core site).accOut - 1 ∧
      (t.core site).inflight = (s.core site).inflight.filter (fun x => x.id ≠ o.id) ∧
      ((t.core site).thread ctx).sbPending sb = false) ∧
  (∀ (s : State) (p k : Nat) (r : Report), s.Up → p < 8 → (s.spine p).reports[k]? = some r → r.step = (s.spine p).step →
    exec (.reductionReport p k) s = .next (s.modSpine p fun sp =>
      if r.probe then { sp with reports := sp.reports.eraseIdx k }
      else { sp with
        reports := sp.reports.eraseIdx k, acc := sp.acc.add r.q
        nf := min (sp.nf + if r.nf then 1 else 0) (2 ^ 32 - 1) })) ∧
  ∀ (s : State) (p k core : Nat), s.Up → p < 8 → (s.spine p).marksIn[k]? = some (core, (s.spine p).step) →
    core ∉ (s.spine p).endMarks →
    exec (.endOfReductionMark p k) s = .next (s.modSpine p fun sp => { sp with
      marksIn := sp.marksIn.eraseIdx k, endMarks := sp.endMarks ++ [core] })

/-- R203: the decision of a verdict from the norm. A non-finite block skips the step first, then a non-finite norm, then a
norm above the skip threshold; a norm above the clip threshold clips with factor threshold ÷ norm.
R203–R206, R146: the verdict of the open step closes the step at the spine: the loss scale and the clean count follow
the table, the accumulator and the marks clear, the step number rises, every core of the allotment takes the new scale
and the fallback bits' step, and every Planisher takes the verdict, with the sweep decisions (R220, R223). Stated for group
tables, lists and ready words that can be reached and hold no error. That SPN_STEP moves on with the verdict, and that the
verdict waits for the boundary of the step before, are the model's choices (log entry 41). -/
def Obligations.Verdicts : Prop :=
 (∀ (norm : Val) (vcfg : BitVec 2) (nf : Nat) (skip clip : Word32) (d : Decision),
    d = decideVerdict norm vcfg nf skip clip →
    d.norm = norm ∧
    (vcfg.getLsbD 0 = true ∧ 0 < nf → d.outcome = 2 ∧ d.cause = 1) ∧
    (¬ (vcfg.getLsbD 0 = true ∧ 0 < nf) → vcfg.getLsbD 1 = true → norm.isFin = false → d.outcome = 2 ∧ d.cause = 4) ∧
    (¬ (vcfg.getLsbD 0 = true ∧ 0 < nf) → vcfg.getLsbD 1 = true → norm.isFin = true → (val32 skip).lt norm = true →
      d.outcome = 2 ∧ d.cause = 2) ∧
    (¬ (vcfg.getLsbD 0 = true ∧ 0 < nf) → vcfg.getLsbD 1 = true → norm.isFin = true → (val32 skip).lt norm = false →
      (val32 clip).lt norm = true →
      d.outcome = 1 ∧ d.cause = 0 ∧ d.factor = (fpDiv .fp32 .rne false (val32 clip) norm).1) ∧
    (¬ (vcfg.getLsbD 0 = true ∧ 0 < nf) → (vcfg.getLsbD 1 = false ∨
      (norm.isFin = true ∧ (val32 skip).lt norm = false ∧ (val32 clip).lt norm = false)) →
      d.outcome = 0 ∧ d.cause = 0 ∧ d.factor = Val.one)) ∧
  ∀ (s : State) (p : Nat) (r : AllotRec) (pl : Plan) (sp : Spine) (d : Decision) (w : Word), s.Up → p < 8 →
    sp = s.spine p →
    s.record p = some r → sp.plan = some pl → sp.st = .loaded → verdictReady s p pl = true →
    d = decideVerdict (normOf sp.acc sp.ls.toInt) sp.vcfg sp.nf sp.skipThr sp.clipThr →
    s.NoInjection → (s.port p).ideInsecure = 0 → sweepsOf s p pl sp.step d.outcome = (some w, s) →
    (∀ n ∈ s.planishers p, s.inPackage n (groupAddr (s.pkg n).grpBase 0) 0x50000 = true ∧
      s.poisoned (groupAddr (s.pkg n).grpBase 0) 0x50000 = false) →
    (∀ i ∈ r.islands, ∀ x ∈ (s.island i).vetch.captured, x.2 = sp.step → ∀ w, pl.works[x.1]? = some w →
      (s.resolveRange p (w.listAddr + 14) 2 true).isSome = true) →
    Completes (.verdict p) s fun t =>
      let l := lossScale sp.lstbl d.outcome d.cause sp.ls.toInt sp.clean.toNat
      let sp' := t.spine p
      sp'.step = sp.step + 1 ∧ sp'.outcome = BitVec.ofNat 2 d.outcome ∧ sp'.cause = BitVec.ofNat 3 d.cause ∧
      sp'.ls = BitVec.ofInt 8 l.1 ∧ sp'.clean = BitVec.ofNat 16 l.2 ∧ sp'.acc = {} ∧ sp'.nf = 0 ∧ sp'.endMarks = [] ∧
      sp'.lastVerdict = some sp.step ∧ sp'.updDone = [] ∧ sp'.updEnded = false ∧
      (∀ n ∈ s.planishers p, ∃ m, (t.pkg n).msg = some m ∧ m.step = sp.step ∧ m.outcome = d.outcome ∧ m.lsNext = l.1 ∧ m.sweep = w) ∧
      ∀ i ∈ r.islands, ∀ x ∈ islandSites i, (t.core x).prdFbStep = sp.step ∧
        (t.core x).lscale = lscaleWord l.1 sp.step.toNat ∧ (t.core x).threads = (s.core x).threads

/-- R212: one slot under each rule of the group table: SGD with momentum, AdamW, AdamW with a trust ratio, and Lion. Every
operation rounds once to FP32. -/
def Obligations.UpdateRules : Prop :=
  ∀ (par : RulePar) (x : Slot3) (g : Val) (m1 m2 u : Val),
    let fma (a b c : Val) : Val := (fma32 false a b c).1
    let mul (a b : Val) : Val := (mul32 false a b).1
    let add (a b : Val) : Val := (add32 false a b).1
    let div (a b : Val) : Val := (div32 false a b).1
    let b1 := val32 par.g.beta1
    let b2 := val32 par.g.beta2
    let lam := val32 par.g.lambda
    let oneLess (v : Val) : Val := (sub32 false Val.one v).1
    (par.g.rule = 0 → m1 = fma b1 x.m1 (fma lam x.w g) →
      applyRule par x g = ({ w := fma par.eta.neg m1 x.w, m1 := m1, m2 := x.m2 }, m1)) ∧
    ((par.g.rule = 1 ∨ par.g.rule = 2) → m1 = fma b1 x.m1 (mul (oneLess b1) g) →
      m2 = fma b2 x.m2 (mul (oneLess b2) (mul g g)) →
      u = add (div (div m1 par.b1) (add (sqrt32 false (div m2 par.b2)).1 (val32 par.g.eps))) (mul lam x.w) →
      applyRule par x g =
        ({ w := fma (if par.g.rule = 2 then mul par.eta par.tr else par.eta).neg u x.w, m1 := m1, m2 := m2 }, u)) ∧
    (par.g.rule = 3 → m1 = fma b1 x.m1 (mul (oneLess b1) g) →
      u = (if m1.isNan then Val.nan else if m1.isZero then Val.zero else .fin m1.isNeg 1 0) →
      applyRule par x g = ({ w := fma par.eta.neg (add u (mul lam x.w)) x.w, m1 := m1, m2 := x.m2 }, u))

/-- R211, R215: a Planisher's update of its next tile takes the tile out of the pass; a clear pass writes +0 with scale 0
to every buffer of the pass, in a slice, and to no other byte, and ends the pass.
R214, R215, R33: with every tile done the trust ratios are formed once; then each Planisher reports its completion, and
the update phase ends with the last one. R216: its phase record takes its stop and its clock, an eighth of the package's
rate, which is the model's choice (log entry 51), as is a clear pass in one command (log entry 42). -/
def Obligations.UpdatePhase : Prop :=
 ((∀ (s s1 : State) (n p k : Nat) (rest : List Nat) (m : VerdictMsg) (pl : Plan) (u : UpdateRec) (check : ReadCheck),
    s.Up → n < 12 → s.allotOfPkg n = some p → (s.pkg n).msg = some m → (s.pkg n).todo = k :: rest →
    (s.spine p).plan = some pl → (s.pkg n).pass = .update → pl.updates[k]? = some u → s.pkgStalled n = false →
    updateTile s p n pl k u m check = .ok s1 → s1.fenceDue = [] → (s1.pkg n).todo = k :: rest → (s1.pkg n).pass = .update →
    Completes (.planisherTileUpdate n check) s fun t =>
      (t.pkg n).todo = rest ∧ (t.pkg n).pass = (if rest = [] then .none else .update) ∧
      t = s1.setPkg n (t.pkg n) ∧ t.mem = s1.mem) ∧
  ∀ (s : State) (n p : Nat) (pl : Plan), s.Up → n < 12 → s.allotOfPkg n = some p → (s.spine p).plan = some pl →
    (s.pkg n).pass = .clear → (s.pkg n).todo ≠ [] → s.NoInjection → s.pkgStalled n = false →
    (∀ k ∈ (s.pkg n).todo, ∃ u, pl.updates[k]? = some u ∧ u.bufAddr.addr pl.sites + 2080 ≤ sramEnd ∧
      (s.resolveRange p (u.bufAddr.addr pl.sites) 2080 true).isSome) →
    Completes (.clearPass n) s fun t =>
      (t.pkg n).todo = [] ∧ (t.pkg n).pass = .none ∧ t.hostMem = s.hostMem ∧ t.cores = s.cores ∧
      (∀ k u j, k ∈ (s.pkg n).todo → pl.updates[k]? = some u → j < 2080 →
        readByte t.mem (u.bufAddr.addr pl.sites + j) = 0) ∧
      ∀ b, (∀ k u, k ∈ (s.pkg n).todo → pl.updates[k]? = some u →
          ¬ (u.bufAddr.addr pl.sites ≤ b ∧ b < u.bufAddr.addr pl.sites + 2080)) →
        readByte t.mem b = readByte s.mem b) ∧
  (∀ (s : State) (p : Nat) (pl : Plan), s.Up → p < 8 → (s.spine p).plan = some pl → (s.spine p).st = .loaded →
    (s.spine p).trDone = false → (∀ n ∈ s.planishers p, (s.pkg n).msg.isSome = true ∧ (s.pkg n).todo = []) →
    s.NoInjection → (∀ n ∈ s.planishers p, ∀ g ∈ pl.groups, g.2.rule = 2 →
      s.inPackage n (runtimeAddr (s.pkg n).grpBase g.1 + 8) 4 = true) →
    Completes (.trustRatio p) s fun t =>
      (t.spine p).trDone = true ∧ (t.spine p).step = (s.spine p).step ∧ t.cores = s.cores ∧
      ((∀ g ∈ pl.groups, g.2.rule ≠ 2) → t.mem = s.mem ∧ t.hostMem = s.hostMem)) ∧
  ∀ (s : State) (n p : Nat) (m : VerdictMsg) (r : AllotRec) (pl : Plan), s.Up → n < 12 → s.allotOfPkg n = some p →
    (s.pkg n).msg = some m → s.record p = some r → (s.spine p).plan = some pl → (s.pkg n).todo = [] →
    (s.spine p).trDone = true →
    Completes (.planisherUpdateCompletion n) s fun t =>
      (t.pkg n).msg = none ∧ (t.pkg n).waiting = true ∧ (t.spine p).updDone = (s.spine p).updDone ++ [n] ∧
      ((t.spine p).updEnded = true ↔ ∀ k ∈ s.planishers p, k ∈ (s.spine p).updDone ++ [n]) ∧
      (∀ a ∈ (t.pkg n).phases, a.step = m.step → a.phase = 5 →
        a.ended = true ∧ a.stop = s.ticks.toNat ∧ a.mhz = (s.pkg n).rate.toNat / 8) ∧
      t.mem = s.mem ∧ t.hostMem = s.hostMem ∧ t.cores = s.cores

/-! ### Mask evolution -/

/-- R163, R128: evolving a tile at level 1, 2 or 4 keeps every mask word transposable: no micro-row and no micro-column
holds more than n present positions. -/
def Obligations.EvolveKeepsTransposable : Prop :=
  ∀ (n : Nat) (ws : List Word) (f dens : Nat) (mag : Nat → Val) (entries : List (Nat × Int × Nat)),
    (n = 1 ∨ n = 2 ∨ n = 4) → (∀ w ∈ ws, ∀ k, k < 8 → rowCount w k ≤ n ∧ colCount w k ≤ n) →
    ∀ w ∈ (evolveTile n ws f dens mag entries).masks, ∀ k, k < 8 → rowCount w k ≤ n ∧ colCount w k ≤ n

/-- R157–R162, R172: a capture writes its candidate list at the list's address and clears its scoreboard entry. A pending
tile of a layer that does not evolve, or whose list is unusable, is passed over and counted.
R164–R168: a tile whose masks change sends its change list to its Planisher; the Planisher serves its oldest list and
returns the working copies; Vetch then writes the tile and goes on to the next pending one. That the oldest capture whose
tile is not pending is served, and that a layer of another level is passed over and counted, are the model's choices (log
entries 44 and 45). -/
def Obligations.MaskEvolution : Prop :=
 ((∀ (s s1 : State) (i p rows : Nat) (c : Capture) (pl : Plan) (w : WorkRec) (l : LayerRec) (m v sc : List Byte)
      (o : MemOp) (msg : Option VerdictMsg), s.Up → i < 36 → s.injected = [] → s.allotOfIsland i = some p →
      (s.spine p).plan = some pl →
    (s.island i).vetch.captures.find? (fun c => !(s.island i).vetch.pendingTiles.contains c.work) = some c →
    pl.works[c.work]? = some w → FMap.find w.layer pl.layers = some l →
    rows = (if evolves l.level then 256 / l.level else 0) →
    (s.core c.site).inflight.find? (fun o => o.id = c.opId) = some o →
    s.Reads p (w.maskAddr.addr pl.sites) (4 * rows) m →
    s.Reads p (c.valueAddr + 64 * (w.tile * rows)) (64 * rows) v →
    s.Reads p (c.scaleAddr + w.tile * rows) rows sc →
    msg = (s.spine p).verdicts.find? (fun x => x.step = c.step) →
    s.store p w.listAddr (listBytes c.step w.tile (msg.any fun x => x.outcome ≠ 2)
      (match msg with | some x => if x.outcome = 2 then 0 else x.ls | none => 0)
      (if evolves l.level then rankTile l.level (maskWords l.level m) v sc l.listLen else [])) = some s1 →
    Completes (.captureComplete i .clean) s fun t =>
      t.mem = s1.mem ∧ (msg = none → (c.work, c.step) ∈ (t.island i).vetch.captured) ∧
      (∀ y ∈ (t.island i).vetch.captures, ¬ (y.site = c.site ∧ y.opId = c.opId)) ∧
      (t.core c.site).inflight = (s.core c.site).inflight.filter (fun x => x.id ≠ o.id) ∧
      (o.sb < 8 → ((t.core c.site).thread o.ctx).sbPending o.sb = false)) ∧
  ∀ (s : State) (i p k : Nat) (rest : List Nat) (pl : Plan) (w : WorkRec) (l : LayerRec) (check : ReadCheck),
    s.Up → i < 36 → s.allotOfIsland i = some p → (s.spine p).plan = some pl →
    (s.island i).vetch.pendingTiles = k :: rest → (s.island i).vetch.phaseOn = true → (s.island i).vetch.stage = .idle →
    pl.works[k]? = some w → FMap.find w.layer pl.layers = some l →
    (evolves l.level = false →
      Completes (.vetchTileEvolve i check) s fun t =>
        (t.island i).vetch.pendingTiles = rest ∧ ((t.island i).vetch.phaseOn = true ↔ rest ≠ []) ∧
        FMap.getD (t.island i).vetch.cnts 6 0 = satAdd (FMap.getD (s.island i).vetch.cnts 6 0) 1 ∧ t.mem = s.mem ∧
        t.cores = s.cores) ∧
    ∀ (upd : Nat) (u : UpdateRec) (mb vb hb : List Byte) (bits : List Bool), evolves l.level = true → check = .clean →
      updateOf pl w = some (upd, u) → s.Reads p (w.maskAddr.addr pl.sites) (1024 / l.level) mb →
      s.Reads p (w.valueAddr.addr pl.sites) (128 * fmtWidth u.fmt) vb → readBlock p pl w l s = (.ok bits, s) →
      (∀ j, j < (maskWords l.level mb).length →
        wordCheck ((maskWords l.level mb).getD j 0) l.level (bits.getD (j / 16) true) = none) →
      s.Reads p w.listAddr 16 hb →
      (candHeader hb).usable w l (s.island i).vetch.step.toNat = false →
      Completes (.vetchTileEvolve i check) s fun t =>
        (t.island i).vetch.pendingTiles = rest ∧ (t.island i).vetch.noList = true ∧
        FMap.getD (t.island i).vetch.cnts 5 0 = satAdd (FMap.getD (s.island i).vetch.cnts 5 0) 1 ∧ t.mem = s.mem ∧
        t.cores = s.cores) ∧
  (∀ (s : State) (i p k upd : Nat) (rest : List Nat) (pl : Plan) (w : WorkRec) (l : LayerRec) (u : UpdateRec)
      (mb vb hb eb : List Byte) (bits : List Bool) (e : Evolved),
    s.Up → i < 36 → s.allotOfIsland i = some p → (s.spine p).plan = some pl →
    (s.island i).vetch.pendingTiles = k :: rest → (s.island i).vetch.phaseOn = true → (s.island i).vetch.stage = .idle →
    pl.works[k]? = some w → FMap.find w.layer pl.layers = some l → evolves l.level = true →
    updateOf pl w = some (upd, u) → s.Reads p (w.maskAddr.addr pl.sites) (1024 / l.level) mb →
    s.Reads p (w.valueAddr.addr pl.sites) (128 * fmtWidth u.fmt) vb → readBlock p pl w l s = (.ok bits, s) →
    (∀ j, j < (maskWords l.level mb).length →
      wordCheck ((maskWords l.level mb).getD j 0) l.level (bits.getD (j / 16) true) = none) →
    s.Reads p w.listAddr 16 hb → (candHeader hb).usable w l (s.island i).vetch.step.toNat = true →
    s.Reads p (w.listAddr + 16) (8 * (candHeader hb).count) eb →
    e = evolveTile l.level (maskWords l.level mb) (layerCurve pl l.dropCurve (s.island i).vetch.step.toNat)
      (layerCurve pl l.densCurve (s.island i).vetch.step.toNat)
      (fun pos => magOf ((copyFmt u.fmt).decode
        (unpackAt (fmtWidth u.fmt) vb (slotOfPos l.level (maskWords l.level mb) pos))))
      ((List.range (candHeader hb).count).map fun j => (ofLe (slice eb (8 * j) 2) % 8192,
        signed 8 (ofLe (slice eb (8 * j + 2) 1)), ofLe (slice eb (8 * j + 4) 2))) →
    (∃ j, j < (maskWords l.level mb).length ∧ e.masks.getD j 0 ≠ (maskWords l.level mb).getD j 0) →
    Completes (.vetchTileEvolve i .clean) s fun t =>
      (t.island i).vetch.stage = .sent ∧ (t.island i).vetch.pendingTiles = k :: rest ∧
      (t.pkg u.planisher).changes = (s.pkg u.planisher).changes ++
        [(i, (changesOf l.level upd (maskWords l.level mb) e (candHeader hb).ls).1)] ∧
      t.mem = s.mem ∧ t.hostMem = s.hostMem ∧ t.cores = s.cores) ∧
  (∀ (s s1 : State) (n p i : Nat) (cl : ChangeList) (rest : List (Nat × ChangeList)) (pl : Plan) (check : ReadCheck)
      (copies : FMap Word32),
    s.Up → n < 12 → s.allotOfPkg n = some p → (s.pkg n).changes = (i, cl) :: rest → (s.spine p).plan = some pl →
    applyChanges s p n pl cl check = (.ok copies, s1) → s1.fenceDue = [] →
    Completes (.changeList n check) s fun t =>
      (t.pkg n).changes = rest ∧ (t.island i).vetch.stage = .returned ∧
      (t.island i).vetch.evolving = (s1.island i).vetch.evolving.map (fun e => { e with copies := copies }) ∧
      t.mem = s1.mem ∧ t.cores = s1.cores) ∧
  ∀ (s s1 s2 : State) (i p : Nat) (e : Evolve) (pl : Plan) (w : WorkRec) (u : UpdateRec) (l : LayerRec) (old : List Byte),
    s.Up → i < 36 → s.allotOfIsland i = some p → (s.island i).vetch.evolving = some e →
    (s.island i).vetch.stage = .returned → (s.spine p).plan = some pl → pl.works[e.work]? = some w →
    pl.updates[e.changes.tile]? = some u → FMap.find w.layer pl.layers = some l →
    s.Reads p (w.valueAddr.addr pl.sites) (128 * fmtWidth u.fmt) old → storeAll p (tileWrites old pl w u e) s = some s1 →
    writeBlockBits p pl w l s1 = some s2 → s2.fenceDue = [] →
    Completes (.vetchTileWrite i) s fun t =>
      (t.island i).vetch.stage = .idle ∧ (t.island i).vetch.evolving = none ∧
      (t.island i).vetch.pendingTiles = (s.island i).vetch.pendingTiles.drop 1 ∧
      t.mem = s2.mem

/-! ### Steps, cuts, marks and ingest -/

/-- R33, R325, R329–R332: with the verdict, the update phase and the mask phase of the open step complete, the spine
passes the step's boundary and sends the boundary mark; a due cut begins there, and is skipped while an export runs. A
cut that meets no error becomes the last consistent one. PAGE_UNDO_COPY copies a tracked page, and so does the first
write to it before it changes a byte. R328, R340: a planned fence that is due is made, and without a cut the allotment
then stops with reason 0x10. That the undo log is held as state, with 4112 bytes for a page, is the model's choice (log
entry 49). -/
def Obligations.BoundariesAndCuts : Prop :=
  (∀ (s : State) (p : Nat) (r : AllotRec) (pl : Plan) (sp : Spine), s.Up → p < 8 → sp = s.spine p →
    s.record p = some r → sp.plan = some pl → sp.st = .loaded → sp.lastVerdict = some sp.openStep →
    sp.updEnded = true → (maskStep pl sp.openStep.toNat = true → ∀ i ∈ r.islands, i ∈ sp.maskDone) →
    sp.ingot.faultStep = none →
    Completes (.stepBoundary p) s fun t =>
      (t.spine p).boundaryOf = some sp.openStep ∧ (t.spine p).ingest.boundary = some sp.openStep ∧
      (∀ i ∈ r.islands, (t.island i).marks = (s.island i).marks ++ [.boundary sp.openStep]) ∧
      t.cores = s.cores ∧ t.mem = s.mem ∧ t.hostMem = s.hostMem ∧
      (pl.ckpt = none → (t.spine p).ingot.fenceReady = s.plannedSites r) ∧
      ∀ ck, pl.ckpt = some ck →
        if cutDue s r ck sp.ingot sp.openStep.toNat then
          if sp.ingot.exporting then
            (t.spine p).ingot = { sp.ingot with skipped := min (sp.ingot.skipped + 1) 255 }
          else (t.spine p).ingot.taking = some (newCut s p pl sp.openStep) ∧ (t.spine p).ingot.cutting = true ∧
            (t.spine p).ingot.forcedPending = false ∧ (t.spine p).ingot.undo = {}
        else (t.spine p).ingot = sp.ingot) ∧
  (∀ (s s1 : State) (p : Nat) (r : AllotRec) (pl : Plan) (ck : CkptSec) (c : Cut), s.Up → p < 8 → s.record p = some r →
    (s.spine p).plan = some pl → pl.ckpt = some ck → (s.spine p).st = .loaded → (s.spine p).ingot.taking = some c →
    (∀ n ∈ r.pkgs, s.pkgOk n = true) → copyCut p r pl ck c s = (.ok (), s1) → s1.fenceDue = [] →
    Completes (.cutConsistent p) s fun t =>
      let g := (t.spine p).ingot
      g.cut = some c ∧ g.taking = none ∧ g.cutting = false ∧ g.none_ = false ∧ g.cutStep = c.step ∧ g.slot = c.slot ∧
      g.epoch = c.epoch ∧ g.fenceReady = s.plannedSites r ∧ (∀ x ∈ g.ring, c.step.toNat < x.step.toNat) ∧
      t.cores = s1.cores ∧ t.islands = s1.islands ∧ t.mem = s1.mem ∧ t.hostMem = s1.hostMem) ∧
  (∀ (s : State) (p page n : Nat) (r : AllotRec) (pl : Plan) (ck : CkptSec) (g : Ingot), s.Up → p < 8 →
    s.record p = some r → (s.spine p).plan = some pl → pl.ckpt = some ck → g = (s.spine p).ingot →
    region (page * 4096) = .lpddr n → r.packages.getLsbD n = true → ¬ (g.none_ = true ∧ g.taking = none) →
    g.lost = false → (excludedOf r pl ck (s.spine p)).page page = false → (∀ x ∈ g.undo.pages, x.1 ≠ page) →
    FMap.getD g.undo.bytes n 0 + 4112 ≤ ck.undoLen → s.injected = [] →
    let lines := s.poisonLines.filter fun k => page * 64 ≤ k && k < page * 64 + 64
    let copy := (page, s.mem.filter (fun c => page * 4096 ≤ c.1 && c.1 < page * 4096 + 4096), lines)
    (∀ (a ph : Nat) (l : List Byte), s.resolveRange p a l.length true = some [(.dev ph, l.length)] → ph / 4096 = page →
      s.discards p a l.length = false →
      ∃ s1, s.store p a l = some s1 ∧ (s1.spine p).ingot.undo.pages = g.undo.pages ++ [copy] ∧
        (∀ j x, l[j]? = some x → readByte s1.mem (ph + j) = x)) ∧
    Completes (.pageUndoCopy p page) s fun t =>
      t.mem = s.mem ∧ t.cores = s.cores ∧ t.islands = s.islands ∧ (lines = [] → t = s.setSpine p (t.spine p)) ∧
      (t.spine p).ingot.undo.pages = g.undo.pages ++ [copy] ∧
      (lines ≠ [] → (FMap.find 0x04 (FMap.getD t.hm.ports (36 + n) [])).isSome = true)) ∧
  ∀ (s : State) (site p : Nat) (r : AllotRec) (pl : Plan), s.Up → site < 576 → s.allotOfSite site = some p →
    s.record p = some r → (s.spine p).plan = some pl → (s.spine p).st = .loaded → s.NoInjection →
    site ∈ (s.spine p).ingot.fenceReady →
    Completes (.plannedFence site) s fun t =>
      (t.island (islandOf site)).sliceFence.getLsbD (posOf site) = true ∧
      (pl.ckpt = none ∨ (s.spine p).ingot.cut = none → (t.spine p).st = .stopped ∧ (t.spine p).stopReason = 0x10) ∧
      ((t.spine p).st = .loaded → ∃ c, (s.spine p).ingot.cut = some c ∧ (t.spine p).step = c.step + 1)

/-- R54, R64, R146, R393: a mark that reaches an island leaves its count in ISL_MARK. A step mark clears the per-step
counters and fires the tasks of trigger 0; a plan-start or a replay-start mark fires those of trigger 2; each carries its
step. Boundary, plan-start and replay-start marks are the origin of a step. Stated for triggers none of whose tasks has a
start outstanding (an overrun aborts, R54). -/
def Obligations.MarksArrive : Prop :=
  ∀ (s : State) (i : Nat) (pre post : List Mark), s.Up → i < 36 →
    let quiet (k : Nat) : Prop := ∀ x ∈ s.boundCores i, ∀ j, j < 32 → teTrigger ((s.core x).task j) = k →
      ((s.core x).run j).pending = none ∧ ((s.core x).run j).restart = none
    let fired (t : State) (k : Nat) (n : Word) : Prop := ∀ x ∈ s.boundCores i, ∀ j, j < 32 →
      (t.core x).run j = if teTrigger ((s.core x).task j) = k then { (s.core x).run j with pending := some n }
        else (s.core x).run j
    let origin (t : State) (n : Word) : Prop :=
      (t.island i).origins = (n, s.islCnt i) :: (s.island i).origins
    ((s.island i).marks = pre ++ .planStart :: post → (∀ x ∈ pre, x ≠ .planStart) → quiet 2 →
      Completes (.planStartMark i) s fun t => (t.island i).marks = pre ++ post ∧ (t.island i).mark2 = s.islCnt i ∧
        origin t 0 ∧ fired t 2 0 ∧ t.mem = s.mem) ∧
    ∀ n : Word,
      ((s.island i).marks = pre ++ .replayStart n :: post → (∀ x ∈ pre, ∀ m, x ≠ .replayStart m) → quiet 2 →
        Completes (.replayStartMark i) s fun t => (t.island i).marks = pre ++ post ∧ (t.island i).mark2 = s.islCnt i ∧
          origin t n ∧ fired t 2 n ∧ t.mem = s.mem) ∧
      ((s.island i).marks = pre ++ .step n :: post → (∀ x ∈ pre, ∀ m, x ≠ .step m) → quiet 0 →
        Completes (.stepMark i) s fun t => (t.island i).marks = pre ++ post ∧ (t.island i).mark0 = s.islCnt i ∧
          fired t 0 n ∧ (∀ x ∈ islandSites i, (t.core x).prdCnt = [] ∧ (t.core x).cdrn = 0) ∧ t.mem = s.mem) ∧
      ((s.island i).marks = pre ++ .boundary n :: post → (∀ x ∈ pre, ∀ m, x ≠ .boundary m) →
        Completes (.boundaryMark i) s fun t => (t.island i).marks = pre ++ post ∧ (t.island i).mark1 = s.islCnt i ∧
          origin t (n + 1) ∧ (∀ x, (t.core x).runs = (s.core x).runs) ∧ t.mem = s.mem)

/-- R64, R65, R216, R267, R277: with its phase over and the step's origin known, a core, a Planisher and the stream-ingest
island write the 32 bytes of their phase-time record at their ring's head, and the head moves on. In real-time mode a
missed bound is reported to the log. R224: a Planisher's ring outside its package ends the write as an address fault,
reported with class 0x12, and the step is abandoned. The ingest island's site 588 and 1000 MHz, unit 588 plus the allotment,
and a Planisher's clock of an eighth of its rate, are the model's choices (log entry 51). -/
def Obligations.PhaseTimeRecords : Prop :=
  (∀ (s : State) (x ph p : Nat) (pl : Plan) (a : PhaseAcc) (o : Word) (b : BoundSec) (c : Core) (r : PhaseRec), s.Up →
    x < 576 → c = s.core x → s.allotOfSite x = some p → (s.spine p).plan = some pl →
    c.phases.find? (fun a => a.phase = ph && c.phaseOver a &&
      (originIn (s.island (islandOf x)).origins a.step).isSome) = some a →
    originIn (s.island (islandOf x)).origins a.step = some o → pl.img.boundSec pl.layout c.rel = some b →
    r = phaseRec a o (b.bounds.getD ph 0) x pl.layout true → s.injected = [] →
    Completes (.phaseTimeRecordWrite x ph) s fun t =>
      t.mem = (s.poke p (c.phaseRing.toNat % 2 ^ 52 / 32 * 32 + 32 * (c.head.toNat % 2 ^ (c.phaseRing.toNat / 2 ^ 58)))
        r.bytes).mem ∧
      (t.core x).head = c.head + 1 ∧ (t.core x).misses = (if b.bounds.getD ph 0 < r.stop then satAdd c.misses 1 else c.misses) ∧
      (∀ y ∈ (t.core x).phases, ¬ (y.phase = a.phase ∧ y.step = a.step)) ∧ (t.core x).threads = c.threads ∧
      (pl.stream.hdr.realTime = true → b.bounds.getD ph 0 < r.stop ∨ 0 < a.smiss → s.hm.hwQueue.length < 256 →
        ∃ e, t.hm.hwQueue = s.hm.hwQueue ++ [e] ∧ e.kind = 3 ∧ e.allot = p)) ∧
  (∀ (s : State) (n p : Nat) (pl : Plan) (a : PhaseAcc) (o : Word) (x : Package), s.Up → n < 12 → x = s.pkg n →
    s.allotOfPkg n = some p → (s.spine p).plan = some pl →
    x.phases.find? (fun a => a.ended && (originIn x.origins a.step).isSome) = some a → originIn x.origins a.step = some o →
    s.injected = [] →
    let addr := x.ring.toNat % 2 ^ 52 / 32 * 32 + 32 * (x.ringHead % 2 ^ (x.ring.toNat / 2 ^ 58))
    (s.inPackage n addr 32 = true → Completes (.phaseTimeRecordWrite (576 + n) 5) s fun t =>
      t.mem = (s.storePhys p addr (phaseRec a o (FMap.getD pl.plnBounds n 0) (576 + n) pl.layout false).bytes).mem ∧
      (t.pkg n).ringHead = x.ringHead + 1 ∧ t.cores = s.cores) ∧
    (s.inPackage n addr 32 = false → ∃ u : State,
      exec (.phaseTimeRecordWrite (576 + n) 5) s = .next (u.abandonStep p).settleFences ∧ u.mem = s.mem ∧
      (u.pkg n).ringHead = x.ringHead + 1 ∧ (FMap.find 0x12 (FMap.getD u.hm.ports (36 + n) [])).isSome = true)) ∧
  ∀ (s : State) (p : Nat) (pl : Plan) (a : PhaseAcc) (o : Word) (g : Ingest), s.Up → p < 8 → g = (s.spine p).ingest →
    (s.spine p).plan = some pl → g.phases.find? (fun a => a.ended && (originIn g.origins a.step).isSome) = some a →
    originIn g.origins a.step = some o → s.injected = [] →
    Completes (.phaseTimeRecordWrite (588 + p) 0) s fun t =>
      t.mem = (s.poke p (pl.stream.hdr.phBase + 32 * (g.phaseHead % 2 ^ pl.stream.hdr.phK))
        ({ phaseRec a o pl.ingestBound 588 pl.layout false with mhz := 1000 } : PhaseRec).bytes).mem ∧
      (t.spine p).ingest.phaseHead = g.phaseHead + 1 ∧ t.cores = s.cores

/-- R272–R277, R335: the island rejects the sample at the head of its queue by the first check that fails, or writes
it to its slot, signals its class's core and counts it; a full batch closes its step, once the replay ring has room
for the manifest, and a step that waits for the room takes nothing. A sample of a later window is held. A close record
whose window has passed is consumed, and any other closes the window. During a replay the records come from the replay
ring. The room asked of the replay ring record by record, and the step that waits for it, are the model's choices (log
entries 52 and 49). -/
def Obligations.IngestTakesSamples : Prop :=
  (∀ (s : State) (p : Nat) (r : AllotRec) (pl : Plan) (g : Ingest) (po : Port) (hb : List Byte) (h : SampleHdr), s.Up →
    p < 8 → s.record p = some r → (s.spine p).plan = some pl → g = (s.spine p).ingest → g.replaying = false →
    s.NoInjection → (pl.stream.hdr.window = true ∨ g.taken < pl.stream.hdr.batch) → po = s.port p →
    liveIngest s p = true → 32 ≤ po.avail po.ingCons.toNat →
    s.ingRead p po.ingCons.toNat 32 = some hb → h = sampleHdr hb → h.close = false →
    32 + h.length ≤ po.ingLen.toNat → 32 + h.length ≤ po.avail po.ingCons.toNat →
    (∀ code, rejectReason pl g po.ingLen.toNat h = some code →
      Completes (.ingestRecord p) s fun t =>
        let g' := (t.spine p).ingest
        g'.rejected = g.rejected + 1 ∧ g'.cntRejected = satAdd g.cntRejected 1 ∧ g'.taken = g.taken ∧ g'.step = g.step ∧
        (t.port p).ingCons = po.ingCons + BitVec.ofNat 64 (32 + h.length) ∧ t.cores = s.cores ∧
        g'.rejWritten = g.rejWritten + (if 2 ^ pl.stream.hdr.rejK ≤ g.rejWritten - po.rejRd.toNat then 0 else 1)) ∧
    (rejectReason pl g po.ingLen.toNat h = none → pl.stream.hdr.window = true →
      g.window < windowOf pl.stream.hdr h.stamp → lagPassed pl.stream.hdr g.window h.stamp = false →
      exec (.ingestRecord p) s = .next (s.modSpine p fun sp => { sp with ingest := { sp.ingest with held := true } })) ∧
    ∀ (c : ClassRec) (payload : List Byte) (s1 s2 : State) (last : Prop), rejectReason pl g po.ingLen.toNat h = none →
      (pl.stream.hdr.window = true → windowOf pl.stream.hdr h.stamp ≤ g.window) → (last ↔
        pl.stream.hdr.window = false ∧ pl.stream.hdr.batch ≤ g.taken + 1) → pl.stream.classes[h.cls]? = some c →
      s.ingRead p (po.ingCons.toNat + 32) h.length = some payload → crc32c payload = h.crc →
      (∀ ck, pl.ckpt = some ck → ringFits (s.spine p).ingot ck (64 + roundUp h.length 64) = true) →
      s1 = (s.modSpine p fun sp => { sp with ingot := { sp.ingot with ringWait := false } }).ringAppend p pl g.step g.taken
        0 0 hb payload → (s1.spine p).st = .loaded →
      s2 = (takeSample s1 p r pl h.cls payload).consume p (32 + h.length) →
      (last → s2.ringRoom p pl 128 = true → ((closeStep (s2.waitRing p false) p pl 0).spine p).st = .loaded) →
      Completes (.ingestRecord p) s fun t =>
        let g' := (t.spine p).ingest
        g'.cntTaken = satAdd g.cntTaken 1 ∧ (t.port p).ingCons = po.ingCons + BitVec.ofNat 64 (32 + h.length) ∧
        (last → s2.ringRoom p pl 128 = true → g'.step = g.step + 1 ∧ g'.taken = 0) ∧
        (last → s2.ringRoom p pl 128 = false → g'.step = g.step ∧ g'.taken = g.taken + 1 ∧
          (t.spine p).ingot.ringWait = true) ∧
        (¬ last → g'.step = g.step ∧ g'.taken = g.taken + 1 ∧
          t.mem = (s1.poke p (sliceBase (pl.sites.getD c.home 0) + c.bufOff + g.step.toNat % 2 * c.bankStride +
            g.taken * c.slotStride) (slice payload 0 c.maxLen)).mem ∧
          t.signals = s.signals ++ [{ src := srcIngest p, srcSite := 0, after := [], dst := pl.sites.getD c.home 0
                                      slot := c.sigSlot, n := 1, step := g.step }])) ∧
  (∀ (s : State) (p : Nat) (r : AllotRec) (pl : Plan), s.Up → p < 8 → s.record p = some r → (s.spine p).plan = some pl →
    (s.spine p).ingest.replaying = false → pl.stream.hdr.window = false →
    pl.stream.hdr.batch ≤ (s.spine p).ingest.taken → s.ringRoom p pl 128 = false →
    exec (.ingestRecord p) s = .next (s.waitRing p true)) ∧
  (∀ (s : State) (p : Nat) (pl : Plan) (po : Port) (hb : List Byte) (h : SampleHdr), s.Up → p < 8 →
    (s.spine p).plan = some pl → po = s.port p → liveIngest s p = true → 32 ≤ po.avail po.ingCons.toNat →
    s.ingRead p po.ingCons.toNat 32 = some hb → h = sampleHdr hb → h.close = true →
    (pl.stream.hdr.window = false ∨ h.stamp < (s.spine p).ingest.window →
      Completes (.closeRecord p) s fun t => t = s.setPort p { po with ingCons := po.ingCons + 32 }) ∧
    ∀ s1, pl.stream.hdr.window = true → (s.spine p).ingest.window ≤ h.stamp →
      closeWindow s p pl (int64 (h.stamp + 1)) 2 = (s1, true) → (s1.spine p).st = .loaded → s1.fenceDue = [] →
      Completes (.closeRecord p) s fun t =>
        (t.spine p).ingest.window = int64 (h.stamp + 1) ∧ (t.spine p).ingest.held = false ∧
        (t.port p).ingCons = po.ingCons + 32 ∧
        (t.spine p).ingest.step = (s.spine p).ingest.step + (if (s.spine p).ingest.taken = 0 then 0 else 1)) ∧
  ∀ (s : State) (p : Nat) (r : AllotRec) (pl : Plan) (ck : CkptSec) (x : RingRec) (rest : List RingRec) (l : List Byte),
    s.Up → p < 8 → s.record p = some r → (s.spine p).plan = some pl → (s.spine p).ingest.replaying = true →
    (s.spine p).st = .loaded → bankWait (s.spine p).ingest = false → pl.ckpt = some ck → s.injected = [] →
    (s.spine p).ingot.fromRing = x :: rest → s.ringLoad p ck x.off x.len = (.ok l, s) →
    (x.kind = 0 → (pl.stream.classes[ofLe (slice l 0x24 1)]?).isSome = true) →
    Completes (.ingestRecord p) s fun t =>
      (t.spine p).ingot.fromRing = rest ∧ ((t.spine p).ingest.replaying = true ↔ rest ≠ []) ∧
      (t.port p).ingCons = (s.port p).ingCons ∧
      (t.spine p).ingest.step = (s.spine p).ingest.step + (if x.kind = 1 then 1 else 0) ∧
      (x.kind = 0 → (t.spine p).ingest.taken = (s.spine p).ingest.taken + 1) ∧
      (x.kind ≠ 0 → x.kind ≠ 1 → (t.spine p).ingest.window = signed 64 (ofLe (slice l 0x10 8)))

/-! ### Host queues and registers -/

/-- R354, R465: a completion for a queue with room is written to the ring's next slot with the phase of its lap, and
the tail moves on, the phase turning where the ring wraps. A write that faults keeps the ring position. A ring that is
full at its size minus one, and a completion that cannot be written being dropped and posted, are the model's choices
(log entry 57). -/
def Obligations.CompletionIsWritten : Prop :=
  ∀ (s : State) (p k : Nat) (c : Completion) (q : QueuePair), q = (s.port p).qp k → q.cqCfg.getLsbD 0 = true →
    q.full = false →
    (∀ s1, s.hostWrite p (ringAddr q.cqCfg q.cqTail) (c.bytes q.phase) = some s1 →
      let t := (s.pushCompletion p k c).1
      (s.pushCompletion p k c).2 = .written ∧ t.hostMem = s1.hostMem ∧ t.mem = s.mem ∧ t.cores = s.cores ∧
      ((t.port p).qp k).cqTail = (q.cqTail + 1) % ringEntries q.cqCfg ∧
      (((t.port p).qp k).phase = q.phase ↔ (q.cqTail + 1) % ringEntries q.cqCfg ≠ 0) ∧
      (∀ j, j ≠ k → (t.port p).qp j = (s.port p).qp j)) ∧
    (s.hostWrite p (ringAddr q.cqCfg q.cqTail) (c.bytes q.phase) = none →
      (s.pushCompletion p k c).2 = .faulted ∧ ((s.pushCompletion p k c).1.port p).qp k = q ∧
      (s.pushCompletion p k c).1.hostMem = s.hostMem)

/-- R69, R70, R334, R339, R350, R354, R394: each host command, served at the front of its queue, has its effect and completes:
LOAD_PLAN with status 0 and the allotment LOADED at step 0, or with the reason of the first check that fails and every
core on hold; UNLOAD, STOP, RESUME, RESTART, WALL_MARK and QUERY; EXPORT starts an export, and EXPORT_END completes it.
The model's choices here: STOP leaves the allotment at its last cut (log entry 47), RESUME that stops again completes with
its stop reason (log entry 56), how RESTART reads and places an export (log entries 55 and 79), and the bytes of an export
(log entry 50). -/
def Obligations.HostCommands : Prop :=
  ∀ (s : State) (p k cid : Nat) (l : List Byte), let s0 := s.taken p k
    (∀ (im : PlanImage) (places : ImagePlace), Served s p k 0x01 cid l → (s.spine p).st = .idle → s.startBarred = false →
      s0.readImage p (operand l 0) (operand l 1) places = some im →
      s.NoInjection →
      (∀ r u0, loadPlan s0 p im .planStart = (.error r, u0) →
        CompletesWith (.loadPlan p k places) s p k cid r.reason [] fun u =>
          (u.spine p).st = .idle ∧ u.mem = u0.mem ∧ ∀ rec x, s.record p = some rec → x < 576 →
            rec.hasIsland (islandOf x) = true → (u.core x).hold = true ∧ ∀ j, ((u.core x).thread j).st = .unused) ∧
      ∀ s1, loadPlan s0 p im .planStart = (.ok (), s1) →
        CompletesWith (.loadPlan p k places) s p k cid 0 [] fun u =>
          u = s1.loaded p ∧ (s1.spine p).st = .loaded ∧ (s1.spine p).step = 0) ∧
    (∀ r, Served s p k 0x02 cid l → s.NoInjection → s.record p = some r →
      CompletesWith (.unload p k) s p k cid 0 [] fun u => (u.spine p).st = .idle ∧ (u.spine p).plan = none ∧
        ∀ x, x < 576 → r.hasIsland (islandOf x) = true → (s.core x).bound = true →
          (u.core x).hold = true ∧ (u.core x).bound = false ∧ (u.core x).threads = []) ∧
    (∀ pl, Served s p k 0x03 cid l → s.NoInjection → (s.spine p).st = .loaded → (s.spine p).plan = some pl →
      CompletesWith (.stop p k) s p k cid 0 [] fun u => (u.spine p).st = .stopped ∧ (u.spine p).stopReason = 0x18 ∧
        (u.port p).stop = 0x18 ∧ (∀ x ∈ pl.sites, (u.core x).hold = true) ∧
        (((s0.quiesce p).windDownAll p).haltCut p = none → (u.spine p).step = (s.spine p).step) ∧
        ∀ r ck c, ((s0.quiesce p).windDownAll p).haltCut p = some (r, pl, ck, c) →
          (u.spine p).step = c.step + 1 ∧ (u.spine p).clean.toNat = c.clean % 65536 ∧ (u.spine p).ingot.undo = {} ∧
          (u.spine p).ingot.undoPrev = {}) ∧
    (∀ pl c, Served s p k 0x04 cid l → s.NoInjection → (s.spine p).st = .stopped → (s.spine p).stopReason ≠ 0x13 →
      (s.spine p).stopReason ≠ 0x1D → s.startBarred = false → (s.spine p).plan = some pl → pl.ckpt.isSome = true →
      (s.spine p).ingot.cut = some c → (s.spine p).ingot.lost = false → (s.spine p).ingot.lostPrev = false →
      ∃ st, CompletesWith (.resume p k) s p k cid st [] fun u =>
        (st = 0 ↔ (u.spine p).st = .loaded) ∧ (st ≠ 0 → (u.spine p).st = .stopped ∧ st = (u.spine p).stopReason) ∧
        (st = 0 → (u.spine p).step = c.step + 1 ∧ (u.spine p).ingest.step = c.step + 1 ∧
          (u.spine p).ingot.replaying = true)) ∧
    (Served s p k 0x05 cid l → (s.spine p).ingot.none_ = false → (s.spine p).ingot.exporting = false →
      (s.spine p).ingot.expCmd = none →
      Completes (.exportCut p k) s fun t => t = s0.setSpine p (t.spine p) ∧ (t.spine p).ingot.exporting = true ∧
        (t.spine p).ingot.expStatus = 0 ∧ (t.spine p).ingot.expCmd = some (cid, k)) ∧
    (∀ r pl ck c s1, s.Up → p < 8 → s.record p = some r → (s.spine p).exportPlan = some pl → pl.ckpt = some ck →
      (s.spine p).ingot.exporting = true → (s.spine p).ingot.cut = some c → (s.spine p).ingot.expCmd = none →
      s.injected = [] →
      (exportAreas (cutMemory s p r pl ck) r pl ck c).findSome? (areaStop (cutMemory s p r pl ck) p) = none →
      s.hostWrite p (fld (s.spine p).ingot.expAddr 51 6 * 64) ((exportRecs s p r pl ck c).flatMap ExpRec.bytes) = some s1 →
      Completes (.exportEnd p) s fun t => t.hostMem = s1.hostMem ∧ t.mem = s.mem ∧ t.cores = s.cores ∧
        (t.spine p).ingot.exporting = false ∧ (t.spine p).ingot.expStatus = 1) ∧
    (∀ cid' j u, s.Up → p < 8 → (s.spine p).ingot.exporting = false → (s.spine p).ingot.expCmd = some (cid', j) →
      s.pushCompletion p j { cid := cid', sq := j, event := false, coalesced := false, status := 0, kind := 0
                             step := (s.spine p).step, payload := leBytes 1 (s.spine p).ingot.expStatus } = (u, .written) →
      Completes (.exportEnd p) s fun t => t = u.setSpine p (t.spine p) ∧ (t.spine p).ingot.expCmd = none) ∧
    (∀ (im : PlanImage) (places : ImagePlace) recs x s1 s2 rec pl, Served s p k 0x06 cid l → (s.spine p).st = .idle →
      s.startBarred = false → s.NoInjection → s0.readImage p (operand l 0) (operand l 1) places = some im →
      parseExport s0 p (mostRecords im) (operand l 2) = .ok recs →
      recs.head? = some x → x.kind = 0 → x.data.length = 128 →
      loadPlan s0 p im (.replayStart (BitVec.ofNat 64 (ofLe (slice x.data 8 8)) + 1)) = (.ok (), s1) →
      s1.record p = some rec → (s1.spine p).plan = some pl → eachOk (placeRecord p rec pl) recs s1 = (.ok (), s2) →
      CompletesWith (.restart p k places) s p k cid 0 [] fun u => (u.spine p).st = .loaded ∧
        (u.spine p).step = BitVec.ofNat 64 (ofLe (slice x.data 8 8)) + 1 ∧
        (u.spine p).ingest.step = BitVec.ofNat 64 (ofLe (slice x.data 8 8)) + 1) ∧
    (∀ r, Served s p k 0x07 cid l → s.record p = some r →
      CompletesWith (.wallMark p k) s p k cid 0 [] fun u =>
        (∀ i ∈ r.islands, u.island i = { s.island i with wall0 := BitVec.ofNat 64 (operand l 0), wall1 := s.islCnt i }) ∧
        (∀ i, i ∉ r.islands → u.island i = s.island i) ∧ u.cores = s.cores ∧ u.mem = s.mem) ∧
    ∀ pl, Served s p k 0x08 cid l → (s.spine p).plan = some pl →
      CompletesWith (.query p k) s p k cid 0 (leBytes 1 (s.spine p).st.code ++ leBytes 1 pl.layout ++ leBytes 2 pl.cores ++
        leBytes 8 (s.spine p).ingot.cutStep.toNat ++ leBytes 8 (s.spine p).ingot.stat.toNat) fun u => u = s0

/-- R7, R427: a write of v to a register leaves each field as its access code says: RW takes the bits written, RWL too
unless its lock is set, W1C clears where v is 1, and RO, WO and RC keep their value; a 32-bit write reaches only the
fields that lie wholly in its half. -/
def Obligations.AccessCodes : Prop :=
  ∀ (r : Reg) (part : Part) (locked : Bool) (old v : Word) (f : Field),
    (∀ g ∈ r.fields, g.lo ≤ g.hi ∧ g.hi < 64) →
    r.fields.Pairwise (fun g h => g.hi < h.lo ∨ h.hi < g.lo) → f ∈ r.fields →
    fld (r.merge part locked old v) f.hi f.lo =
      if f.within part = false then fld old f.hi f.lo
      else match f.acc with
      | .rw => fld v f.hi f.lo
      | .rwl => if locked then fld old f.hi f.lo else fld v f.hi f.lo
      | .w1c => fld (old &&& ~~~v) f.hi f.lo
      | .ro | .wo | .rc => fld old f.hi f.lo

/-- R334, R353–R356, R388, R444: the host-port, spine and mailbox registers with effects of their own. The tail of a submission
queue takes a value within the ring, and any other sets its error; CQ_HEAD takes bits 14:0 of the value; ING_PROD takes a count that neither falls nor
leads by more than the ring; clearing ING_CFG.en clears the ring's counts; INGOT_EXP.go starts an export; VAL_CTL.go
takes a descriptor request, and busy reads 1 until its answer stands, which a tick brings (the model's choice, log entry
33), and while busy go is ignored; MBX_WDOG takes the period, whose expiry sets the OS watchdog latch. -/
def Obligations.QueueAndControlRegisters : Prop :=
  ∀ (s : State) (who : Requester) (p k size half : Nat) (v : Word), p < 8 → k < 8 → (size = 4 ∨ size = 8) →
    let w := placed (4 * (half % 2)) size v
    let lower : Prop := size = 8 ∨ half % 2 = 0
    let po := s.port p
    (Admitted s who (.port p) (0x110 + 32 * k + (if size = 4 then 4 * (half % 2) else 0)) true →
      Completes (.sqTailDoorbell who p k size half v) s fun t => ∃ q,
        t = s.setPort p (po.setQp k q) ∧
        q = { po.qp k with
          tail := if lower ∧ w.toNat % 2 ^ 15 < ringEntries (po.qp k).sqCfg then w.setWidth 15 else (po.qp k).tail
          tailErr := ((po.qp k).tailErr && !w.getLsbD 63) || decide (ringEntries (po.qp k).sqCfg ≤ w.toNat % 2 ^ 15) }) ∧
    (Admitted s who (.port p) (0x118 + 32 * k + (if size = 4 then 4 * (half % 2) else 0)) true →
      Completes (.cqHeadWrite who p k size half v) s fun t =>
        let u := s.setPort p (po.setQp k { po.qp k with cqHead := if lower then w.setWidth 15 else (po.qp k).cqHead })
        t = if lower then (if k = 0 then deliverEvents p po.events u else u) else s) ∧
    (Admitted s who (.port p) 0x218 true →
      Completes (.ingProdWrite who p v) s fun t => t = s.setPort p
        (if v.toNat < po.ingProd.toNat ∨ po.ingCons.toNat + po.ingLen.toNat < v.toNat then { po with prodErr := true }
        else { po with ingProd := v })) ∧
    (Admitted s who (.port p) (0x200 + (if size = 4 then 4 * (half % 2) else 0)) true → lower →
      Completes (.ingCfgWrite who p size half v) s fun t =>
        let off := po.ingEn && !v.getLsbD 0
        t = s.setPort p { po with
          ingEn := v.getLsbD 0, prodErr := po.prodErr && !v.getLsbD 1, lenErr := po.lenErr && !off
          ingFault := po.ingFault && !off, ingProd := if off then 0 else po.ingProd
          ingCons := if off then 0 else po.ingCons }) ∧
    (Admitted s who .spine (0x1000 * p + 0x110 + (if size = 4 then 4 * (half % 2) else 0)) true → lower →
      v.getLsbD 0 = true → (s.spine p).ingot.exporting = false → (s.spine p).ingot.none_ = false →
      Completes (.ingotExpGo who p size half v) s fun t => t = s.setSpine p (t.spine p) ∧
        (t.spine p).ingot.exporting = true ∧ (t.spine p).ingot.expStatus = 0 ∧
        (size = 8 → fld (t.spine p).ingot.expAddr 51 6 = fld v 51 6)) ∧
    (Admitted s who .spine (0x1000 * p + 0x260 + (if size = 4 then 4 * (half % 2) else 0)) true → lower →
      v.getLsbD 0 = true →
      Completes (.validatorRequest who p size half v) s fun t => t = s.setSpine p (t.spine p) ∧
        ((s.spine p).valBusy = none → (t.spine p).valBusy = some
          (match (s.spine p).plan with | some pl => pl.sites | none => [], DescReq.ofBytes
            ((List.range 12).flatMap fun n => leBytes 8 (FMap.getD (s.spine p).valReq n 0).toNat)) ∧
          (t.spine p).valDone = false ∧ (t.spine p).valCode = 0 ∧ (t.spine p).valSlot = 0) ∧
        ((s.spine p).valBusy ≠ none → (t.spine p).valBusy = (s.spine p).valBusy ∧
          (t.spine p).valDone = ((s.spine p).valDone && !v.getLsbD 2))) ∧
    (∀ sites req code s1, s.pending = [] → (s.spine p).valBusy = some (sites, req) →
      (∀ j, j ≠ p → (s.spine j).valBusy = none) →
      (match submit s p sites req with | .ok s' => (0, s') | .error c => (c, s)) = (code, s1) →
      ∃ t, step s = .next t ∧ (t.spine p).valBusy = none ∧ (t.spine p).valDone = true ∧
        (t.spine p).valCode = BitVec.ofNat 8 code ∧ (t.spine p).valSlot = req.slot ∧ t.cores = s1.cores ∧
        t.mem = s.mem) ∧
    (Admitted s who .hallmark (0x10010 + 0x10000 * p + (if size = 4 then 4 * (half % 2) else 0)) true → lower →
      Completes (.mbxWdogWrite who p size half v) s fun t => t = s.modMailbox p fun m => { m with period := v.setWidth 32 }) ∧
    (s.Up → (s.hm.mailbox p).period ≠ 0 →
      Completes (.osWatchdogExpiry p) s fun t => t.hm.alert = s.hm.alert ||| 0x10 ∧ State.OnlyHallmark s t ∧
        (s.hm.hwQueue.length < 256 → ∃ e, t.hm.hwQueue = s.hm.hwQueue ++ [e] ∧ e.kind = 9 ∧ e.allot = p))

/-- R426–R429, R433, R435, R438: a write reaches the register at its offset by the access codes; through the loader alias,
with the core or island held, it writes every field that is not live; the code window of a held core takes a word, and
that of a running core ignores it. A read clears the RC fields it takes. An access that may not reach its address
changes nothing but what its report changes: a host's ends as Unsupported Request (R343), an application core's is reported
with class 0x10 (R359), and a thread's is no access. An application core writes the memory its allotment holds (R28). What
the resident operating system reaches, and its faults, are the model's choices (log entry 62), as are the fields that the
alias leaves (log entry 61). -/
def Obligations.RegisterAccesses : Prop :=
  (∀ (s u : State) (who : Requester) (a size o : Nat) (b : Block) (v : Word) (r : Reg), blockAt a = some (b, o) →
    Admitted s who b o true → sizeOk b o size = true → inBuffer b o = false → inMsix b o = false →
    (hasAlias b = true → o < 0x10000) → regAt b (o / 8 * 8) = some r →
    u = r.write (partOf o size) s.hm.filtLock (placed o size v) s → u.fenceDue = [] →
    Completes (.registerWrite who a size v) s fun t => t = u) ∧
  (∀ (s u : State) (who : Requester) (a size o : Nat) (b : Block) (v : Word) (r : Reg), blockAt a = some (b, o) →
    Admitted s who b o true → sizeOk b o size = true → hasAlias b = true → 0x80000 ≤ o → s.held b = true →
    regAt b ((o - 0x80000) / 8 * 8) = some r → u = r.aliasWrite (partOf o size) (placed o size v) s → u.fenceDue = [] →
    Completes (.loaderAliasWrite who a size v) s fun t => t = u) ∧
  (∀ (s : State) (who : Requester) (x pc : Nat) (v : Word), x < 576 → pc < 16384 →
    Admitted s who (.core x) (0x10000 + 8 * pc) true →
    Completes (.tableWindowWrite who (0xF00000000000 + 0x100000 * x + 0x10000 + 8 * pc) 8 v) s fun t =>
      t = if (s.core x).hold then s.setCore x { s.core x with code := FMap.insert pc v (s.core x).code } else s) ∧
  (∀ (s : State) (who : Requester), Admitted s who .hallmark 0 false →
    Completes (.rcRegisterRead who 0xF30000000000 8) s fun t => t = { s with hm := { s.hm with netDrop := 0 } }) ∧
  (∀ (s : State) (who : Requester) (a size o : Nat) (b : Block) (r : Reg), blockAt a = some (b, o) →
    Admitted s who b o false → sizeOk b o size = true → regAt b (o / 8 * 8) = some r → (∀ f ∈ r.fields, f.acc ≠ .rc) →
    Completes (.rcRegisterRead who a size) s fun t => t = s) ∧
  (∀ (s s1 : State) (q a size : Nat) (v : Word), s.Up → blockAt a = none → s.store q a (leBytes size v.toNat) = some s1 →
    s1.fenceDue = [] → Completes (.registerWrite (.os q) a size v) s fun t => t = s1) ∧
  ∀ (s : State) (who : Requester) (a size o : Nat) (b : Block) (v : Word), s.Up → blockAt a = some (b, o) →
    s.linked who o = true → s.reaches who b o true = false →
    exec (.registerWrite who a size v) s = .next (match who with
      | .host q => s.reportFrom 0x10 (48 + q) 0xFFFF (some q) 0
      | .os q => s.reportFrom 0x10 56 0xFFFF (some q) 0
      | .hallmark | .thread _ => s)

/-- R29: with interleave on, block o / 4096 of the logical offset lies in package o / 4096 mod k, and with interleave off
an address is its own location: a bijection on the allotment's packages. -/
def Obligations.Addresses : Prop :=
  ∀ (r : AllotRec) (j n off : Nat), r.pkgs[j]? = some n → off < 0x1200000000 →
    r.phys (lpBase n + off) = (if r.interleave then
        let o := j * 0x1200000000 + off
        lpBase (r.pkgs.getD (o / 4096 % r.pkgs.length) 0) + o / 4096 / r.pkgs.length * 4096 + o % 4096
      else lpBase n + off) ∧
    r.device (r.phys (lpBase n + off)) = lpBase n + off ∧ ∃ m ∈ r.pkgs, region (r.phys (lpBase n + off)) = .lpddr m

/-- R351: a window entry that is valid and permits the access replaces address bits 63:28, and any other is an address
fault. A request is split at a 256 MiB boundary, and each part is translated by itself. A write of an entry stores the
fields of Table 4, and leaves the accesses that are in flight the table of their issue. -/
def Obligations.WindowTable : Prop :=
  (∀ (po : Port) (p e off : Nat) (wr : Bool), p < 8 → e < 4096 → off < 2 ^ 28 →
    translate po p (winBase p + e * 2 ^ 28 + off) wr =
      if (po.winEntry e).getLsbD 0 = true ∧ (po.winEntry e).getLsbD (if wr then 2 else 1) = true then
        some (p * 2 ^ 64 + (po.winEntry e).toNat / 2 ^ 28 * 2 ^ 28 + off)
      else none) ∧
  (∀ (s : State) (p a n : Nat) (wr : Bool), p < 8 → (s.record p).isSome = true → winBase p ≤ a →
    a + n ≤ winBase p + 2 ^ 40 →
    (∀ locs, s.resolveRange p a n wr = some locs ↔
      (piecesOf a n).map (fun x => (translate (s.port p) p x.1 wr).map fun h => (Loc.host h, x.2)) = locs.map some) ∧
    ((piecesOf a n).map Prod.snd).sum = n ∧ ∀ x ∈ piecesOf a n,
      0 < x.2 ∧ a ≤ x.1 ∧ x.1 + x.2 ≤ a + n ∧ x.1 / 2 ^ 28 = (x.1 + x.2 - 1) / 2 ^ 28) ∧
  ∀ (s : State) (who : Requester) (p e : Nat) (v : Word), p < 8 → e < 4096 →
    Admitted s who (.port p) (0x20000 + 8 * e) true →
    Completes (.registerWrite who (0xF40000000000 + 0x100000 * p + 0x20000 + 8 * e) 8 v) s fun t =>
      (t.port p).winEntry e = ((s.port p).winEntry e &&& ~~~0xFFFFFFFFF000000F) ||| (v &&& 0xFFFFFFFFF000000F) ∧
      (∀ j, j ≠ e → (t.port p).winEntry j = (s.port p).winEntry j) ∧
      ∀ x, (t.core x).inflight = if s.allotOfSite x = some p then
          (s.core x).inflight.map fun o => { o with win := some (o.win.getD (s.port p).win) }
        else (s.core x).inflight

/-- R343–R346, R385, R464: an aperture access reaches the allotment's memory; a device request that ends without data is
reported and handled by its unit; a stream that fails its integrity check enters Insecure and leaves it when IDE_KM
re-keys it in the port's session; a reset of a port unloads its allotment and clears the port's function; a port with a
record trains its link, unless its step 0x13 failed or PERST_N is low (R418, R450). The bytes of SPDM messages are the model's
choice (log entry 68). R16, R290, R359: the function shows its identity, and an island's FT5 channel interrupts the
application cores of the record that owns the island. -/
def Obligations.HostPort : Prop :=
  ∀ (s : State) (p : Nat) (r : AllotRec) (po : Port), s.Up → p < 8 → s.record p = some r → po = s.port p →
    (∀ off, po.rate ≠ 0 → po.ideInsecure = 0 →
      let a := fld po.aptBase 51 12 * 4096 + off
      (∀ l s1, l ≠ [] → off + l.length ≤ 2 ^ r.apLog2 →
        (a + l.length ≤ sramEnd ∨ (0x010000000000 ≤ a ∧ a + l.length ≤ lpEnd)) → s.store p a l = some s1 →
        s1.fenceDue = [] →
        Completes (.hostApertureAccess p off l.length (some l)) s fun t => t = s1) ∧
      ∀ n l s1, 0 < n → off + n ≤ 2 ^ r.apLog2 → (a + n ≤ sramEnd ∨ (0x010000000000 ≤ a ∧ a + n ≤ lpEnd)) →
        s.readCk p a n .clean = (.data l, s1) → s1.fenceDue = [] →
        Completes (.hostApertureAccess p off n none) s fun t => t = s1) ∧
    (∀ kind, (kind = .ideDiscarded → po.ideInsecure ≠ 0) →
      let reported (t : State) : Prop := (FMap.find 0x10 (FMap.getD t.hm.ports (48 + p) [])).isSome = true
      (liveIngest s p = true → Completes (.hostRequestFault p .ingest kind) s fun t =>
        t = (s.reportFrom 0x10 59 588 (some p) 0).setPort p (t.port p) ∧ (t.port p).ingFault = true ∧
        (FMap.find 0x10 (FMap.getD t.hm.ports 59 [])).isSome = true) ∧
      Completes (.hostRequestFault p .other kind) s (fun t => t.mem = s.mem ∧ t.cores = s.cores ∧ reported t) ∧
      (∀ k, po.served = some k → Completes (.hostRequestFault p (.submission k) kind) s fun t =>
        ((t.port p).qp k).sqHead = ((po.qp k).sqHead + 1) % ringEntries (po.qp k).sqCfg ∧ t.mem = s.mem ∧
        t.cores = s.cores ∧ reported t) ∧
      ∀ site ctx sb o rg, s.NoInjection →
        (s.core site).inflight.find? (fun o => o.ctx = ctx && o.sb = sb) = some o →
        s.allotOfSite site = some p → rg ∈ o.reads → region rg.1 = .window p →
        Completes (.hostRequestFault p (.access site ctx sb) kind) s fun t =>
          (∀ x ∈ (t.core site).inflight, x.id ≠ o.id) ∧ reported t) ∧
    (∀ k, k < 2 → Completes (.ideStreamInsecure p k) s fun t =>
      (t.port p).ideInsecure.getLsbD k = true ∧ (t.port p).ideInsecure.getLsbD (1 - k) = po.ideInsecure.getLsbD (1 - k) ∧
      t.cores = s.cores ∧ t.mem = s.mem) ∧
    (∀ c down deep, ((c = .functionLevelReset p ∧ down = false ∧ deep = false) ∨
        (c = .hotReset p ∧ down = true ∧ deep = false) ∨
        ((∃ perst, c = .linkDown { port := p, perst := perst }) ∧ po.rate ≠ 0 ∧ down = true ∧ deep = false) ∨
        (c = .d3hotEntry p ∧ down = false ∧ deep = true)) → (s.spine p).st ≠ .unbound → s.NoInjection →
      Completes c s fun t =>
        let x := t.port p
        (t.spine p).st = .idle ∧ (t.spine p).plan = none ∧ (t.spine p).ingot.expCmd = none ∧ x.win = [] ∧ x.aptBase = 0 ∧
        x.ingEn = false ∧ x.msix = [] ∧ x.spdmSession = false ∧
        (∀ k, (x.qp k).sqCfg.getLsbD 0 = false ∧ (x.qp k).cqCfg.getLsbD 0 = false) ∧
        x.rate = (if down then 0 else po.rate) ∧ x.d3hot = deep ∧
        ((s.spine p).st = .loaded → (s.spine p).plan.isSome = true → x.stop = 0x17) ∧ ∀ q, q ≠ p → t.port q = s.port q) ∧
    (∀ perst, Completes (.linkDown { port := p, perst := perst }) s fun t =>
      po.rate = 0 → t = if perst then s.setPort p { po with perstLow := true } else s) ∧
    (s.unanswered = false → s.hm.fwState = 0 → po.rate ≠ 0 → ∀ msg : List Byte, 4 ≤ msg.length → leAt msg 0 1 = 0x13 →
      (leAt msg 1 1 = 0xE4 → po.spdmSession = false → Completes (.doeSpdmMessage p msg) s fun t =>
        t = { s with ports := t.ports, hm := { s.hm with drbg := s.hm.drbg + 1 } } ∧ (t.port p).spdmSession = true ∧
        (∃ b, (t.port p).doeAnswer = some b ∧ b.take 2 = [0x13, 0x64]) ∧ ∀ q, q ≠ p → t.port q = s.port q) ∧
      (leAt msg 1 1 = 0xE4 → po.spdmSession = true → Completes (.doeSpdmMessage p msg) s fun t =>
        t = s.setPort p { po with doeAnswer := some [0x13, 0x7F, 0x0A, 0] }) ∧
      (∀ k, leAt msg 1 1 = 0xFE → leAt msg 12 1 = 4 → leAt msg 15 1 = k → po.spdmSession = true → k < 2 →
        Completes (.doeSpdmMessage p msg) s fun t =>
          t = s.setPort p (t.port p) ∧ (t.port p).ideInsecure.getLsbD k = false ∧
          (t.port p).ideInsecure.getLsbD (1 - k) = po.ideInsecure.getLsbD (1 - k)) ∧
      ∀ index b, leAt msg 1 1 = 0xE0 → leAt msg 3 1 = index → index ∈ [1, 2, 3, 4, 5, 6] →
        s.measurement (some p) index = some b → Completes (.doeSpdmMessage p msg) s fun t =>
          ∃ answer, (t.port p).doeAnswer = some answer ∧ slice answer 8 (b.length + 7) = spdmBlock index b) ∧
    (po.function.deviceId = 0x0F09 ∧ po.function.classCode = 0x120000 ∧ po.function.revisionId = 0x20) ∧
    (∀ c i ch, r.appCores.getLsbD c = true → i ∈ r.islands → ch < 32 → (s.island i).ft5Lines.getLsbD ch = true →
      .ft5 i ch ∈ s.appInterrupts c) ∧
    ∀ (w rate : Nat) (flit : Bool),
      (po.held = false → (po.slow = true → rate ≤ 3) →
        ((w = 8 ∨ w = 16) → 1 ≤ rate → rate ≤ 4 → (2 < rate → flit = true) →
          Completes (.linkTraining p w rate { flit := flit, perstLow := false }) s fun t =>
            t = s.setPort p { po with
              rate := BitVec.ofNat 4 rate, width := BitVec.ofNat 8 w, flit := flit, d3hot := false, perstLow := false }) ∧
        (w ≤ 4 → Completes (.linkTraining p w rate { flit := flit, perstLow := false }) s fun t =>
          (t.port p).rate = 0 ∧ (t.port p).width = 0)) ∧
      ∀ low, po.held = true ∨ low = true → Completes (.linkTraining p w rate { flit := flit, perstLow := low }) s fun t =>
        t = s.setPort p { po with perstLow := low }

/-! ### Hallmark -/

/-- R376–R378: address and echo requests for an own address are answered; a datagram to the HMP port that is an HMP
request joins the queue of 16, and beyond it is dropped and counted; any other frame is no request, and with the port down
(R418) none arrives. A request behind others waits its turn. A signed request with a wrong signature, an unknown slot, a stale nonce or too low a role is
refused with its status and has no other effect than the audit record; only a right signature and nonce draw a new
nonce. That one with a bad header is answered before its signature is looked at is the model's choice (log entry 79), as is
the part of a frame that the model carries (log entry 64). -/
def Obligations.RequestsAreAuthenticated : Prop :=
  (∀ (s : State) (f : Frame), s.Up → s.hm.portUp = false → exec (.networkFrame f) s = .next s) ∧
  (∀ (s : State) (f : Frame), s.Up → s.hm.portUp = true →
    Completes (.networkFrame f) s fun t => t = match f with
      | .resolve a =>
        if s.unanswered = false ∧ s.hm.ownAddr a = true then
          { s with hm := { s.hm with netAnswer := some (.resolved a s.hm.macAddr) } }
        else s
      | .echo a l =>
        if s.unanswered = false ∧ s.hm.ownAddr a = true then { s with hm := { s.hm with netAnswer := some (.echoed a l) } }
        else s
      | .udp a port l =>
        if s.hm.ownAddr a = true ∧ port = s.hm.net.udpPort.toNat ∧ hmpDatagram l = true then
          (if s.hm.netQueue.length < 16 then { s with hm := { s.hm with netQueue := s.hm.netQueue ++ [l] } }
          else { s with hm := { s.hm with netDrop := satAdd s.hm.netDrop 1 } } : State).answerMalformed 1
        else s
      | _ => s) ∧
  (∀ (s : State) (h : Hmp) (l : List Byte) (q : List (List Byte)), s.Up → s.hm.portUp = true → s.hm.netQueue = l :: q →
    l ≠ datagram h 0x0012 [] → Completes (.checkpoint h) s fun t =>
      t = { s with hm := s.hm.enqueue (datagram h 0x0012 []) }) ∧
  ∀ (s : State) (h : Hmp) (k : KeySlot), s.Answers → s.Turn h 0x0012 [] → h.slot ≠ 0xFF → k = s.hm.key h.slot.toNat →
    let refused (status : Nat) : Prop := Completes (.checkpoint h) s fun t =>
      State.OnlyHallmark s t ∧ t.hm = { s.hm with
        netQueue := s.hm.netQueue.tail, resp := t.hm.resp, hwQueue := t.hm.hwQueue, keys := t.hm.keys
        drbg := t.hm.drbg } ∧
      t.hm.resp = some (responseTo s.hm h 0x0012 status
        (if h.slot.toNat < 4 then (t.hm.key h.slot.toNat).nonce else 0) []) ∧
      (status ≠ 0x04 → t.hm.keys = s.hm.keys ∧ t.hm.drbg = s.hm.drbg) ∧
      (s.hm.hwQueue.length < 256 → ∃ e, t.hm.hwQueue = s.hm.hwQueue ++ [e] ∧ e.kind = 7)
    (3 < h.slot.toNat ∨ k.key = none ∨ s.hm.verifies h 0x0012 [] = false → refused 0x02) ∧
    (s.hm.verifies h 0x0012 [] = true → h.nonce ≠ k.nonce → refused 0x03) ∧
    (s.hm.verifies h 0x0012 [] = true → h.nonce = k.nonce → k.role = 0 → refused 0x04)

/-- R365, R373–R378, R385: the requests that read Hallmark: IDENT, GET_NONCE and SPDM unsigned; READ_SENSORS, READ_LOG and
GET_ALLOT signed; and ALERT_CLEAR, which clears every latch whose condition no longer stands.
R327, R328, R348–R350, R368, R370, R371, R376: the requests that govern the allotments and the settings: a table that
passes its checks is put in force, and one that fails is refused with its check and port; CHECKPOINT forces a cut, or
reports that there is nothing to cut, and FENCE stops every loaded allotment; the envelope, the filters, the network and
the thresholds are stored within their limits. The model's choices here: the bytes of SPDM messages (log entry 68), what
conditions still stand for ALERT_CLEAR (log entry 65), and that a changed record puts its partition of the spine at reset
(log entry 79). -/
def Obligations.HallmarkRequests : Prop :=
 (∀ (s : State) (h : Hmp), s.Answers →
    (h.slot = 0xFF →
      let answered (cmd : Nat) (b : List Byte) (m : Hallmark) : State :=
        { s with hm := { m with netQueue := s.hm.netQueue.tail, resp := some (responseTo s.hm h cmd 0 0 b) } }
      (s.Turn h 0x0001 [] → Completes (.ident h) s fun t => t = answered 0x0001 s.identBody s.hm) ∧
      (∀ k, k < 4 → s.Turn h 0x0002 (leBytes 1 k) → Completes (.getNonce h k) s fun t =>
        t = answered 0x0002 (leBytes 32 (s.hm.key k).nonce.toNat) s.hm) ∧
      ∀ msg : List Byte, s.Turn h 0x0050 msg →
        (∀ a l, s.spdmMessage none 4 s.hm.hmpSessions s.hm.spdmChunks msg = (a, l) → Completes (.spdm h msg) s fun t =>
          t = answered 0x0050 a.body { a.s.hm with hmpSessions := a.held, spdmChunks := l }) ∧
        (4 ≤ msg.length → leAt msg 0 1 = 0x13 →
          (leAt msg 1 1 = 0xE4 → s.hm.hmpSessions < 4 → Completes (.spdm h msg) s fun t =>
            t.hm.hmpSessions = s.hm.hmpSessions + 1 ∧ t.hm.drbg = s.hm.drbg + 1) ∧
          (leAt msg 1 1 = 0xE4 → 4 ≤ s.hm.hmpSessions → Completes (.spdm h msg) s fun t =>
            t = answered 0x0050 [0x13, 0x7F, 0x0A, 0] s.hm) ∧
          ∀ index b, leAt msg 1 1 = 0xE0 → leAt msg 3 1 = index → index ∈ [1, 2, 3, 4] ∨ (16 ≤ index ∧ index < 32) →
            s.measurement none index = some b → Completes (.spdm h msg) s fun t =>
              ∃ r, t.hm.resp = some r ∧ slice r.body 8 (b.length + 7) = spdmBlock index b)) ∧
    (∀ first n, n ≤ 64 → Accepted s h 0 0x0003 (leBytes 2 first ++ leBytes 2 n) →
      Completes (.readSensors h first n) s fun t => State.OnlyHallmark s t ∧
        Answered s t h 0x0003 0 ((((List.range n).map (first + ·)).filter sensorId).flatMap s.hm.sensorBytes)) ∧
    (∀ seq n, n ≤ 19 → Accepted s h 0 0x0004 (leBytes 8 seq ++ leBytes 2 n) →
      (s.hm.logHead ≤ seq + 16384 → Completes (.readLog h seq n) s fun t => State.OnlyHallmark s t ∧
        t.hm.log = s.hm.log ∧ Answered s t h 0x0004 0 (s.logBody seq n none).2) ∧
      (seq + 16384 < s.hm.logHead → Completes (.readLog h seq n) s fun t => State.OnlyHallmark s t ∧
        Answered s t h 0x0004 0x08 (leBytes 8 (s.hm.logHead - 16384)))) ∧
    (Accepted s h 0 0x0010 [] → Completes (.getAllot h) s fun t => State.OnlyHallmark s t ∧
      Answered s t h 0x0010 0 (s.hm.table.flatMap AllotRec.bytes)) ∧
    (Accepted s h 1 0x0005 [] → Completes (.alertClear h) s fun t => State.OnlyHallmark s t ∧
      Answered s t h 0x0005 0 [] ∧ ∀ b, b < 8 → t.hm.alert.getLsbD b = (s.hm.alert.getLsbD b && s.standing b))) ∧
  ∀ (s : State) (h : Hmp),
    (∀ table : List AllotRec, table.length = 8 → Accepted s h 2 0x0011 (table.flatMap AllotRec.bytes) →
      (s.tableCheck table = none → Completes (.setAllot h table) s fun t => Answered s t h 0x0011 0 [] ∧
        t.hm.table = table ∧ t.hm.inForce = table.filter (fun r => r.valid) ∧ t.mem = s.mem ∧ t.cores = s.cores ∧
        ∀ p, p < 8 →
          (t.record p = s.record p → t.spine p = s.spine p ∧ t.port p = s.port p) ∧
          (t.record p ≠ s.record p → t.spine p = { st := if (t.record p).isSome then .idle else .unbound } ∧
            (t.port p).rate = 0 ∧ (t.port p).win = [])) ∧
      ∀ code port, s.tableCheck table = some (code, port) → Completes (.setAllot h table) s fun t =>
        State.OnlyHallmark s t ∧ t.hm.table = s.hm.table ∧ t.hm.inForce = s.hm.inForce ∧
        Answered s t h 0x0011 0x06 (leBytes 1 code ++ leBytes 1 port)) ∧
    (Accepted s h 1 0x0012 [] → Completes (.checkpoint h) s fun t => Answered s t h 0x0012 0 [] ∧ t.mem = s.mem ∧
      t.cores = s.cores ∧ ∀ p, p < 8 →
        ((t.spine p).ingot.forcedPending = true ↔ (s.spine p).ingot.forcedPending = true ∨
          ((s.spine p).st = .loaded ∧ ∃ pl, (s.spine p).plan = some pl ∧ pl.ckpt.isSome = true)) ∧
        ((s.spine p).st = .loaded → (∃ pl, (s.spine p).plan = some pl ∧ pl.ckpt = none) →
          (FMap.find 0x0E (FMap.getD t.hm.ports 58 [])).isSome = true)) ∧
    (Accepted s h 1 0x0013 [] → s.NoInjection → Completes (.fence h) s fun t =>
      Answered s t h 0x0013 0 [] ∧ AllStopped s t 0x15) ∧
    (∀ slew floor, Accepted s h 2 0x0020 (leBytes 1 slew ++ leBytes 2 floor) → s.allIdle = true → s.hm.brake = false →
      s.hm.leak = false → 4 ≤ slew → slew ≤ 32 → 100 ≤ floor → floor ≤ 1650 → 1650 ≤ floor + slew * 300 →
      Completes (.setEnvelope h slew floor) s fun t =>
        State.OnlyHallmark s t ∧ Answered s t h 0x0020 0 [] ∧ t.hm.govSlew = BitVec.ofNat 8 slew ∧
        t.hm.govFloor = BitVec.ofNat 16 floor ∧ t.hm.storedSlew = BitVec.ofNat 8 slew ∧
        t.hm.storedFloor = BitVec.ofNat 16 floor) ∧
    (∀ n par, n < 5 → (n = 4 → s.hm.flowMin.toNat ≤ par.flowMin.toNat ∧
        ∀ old, FMap.find 4 s.hm.storedFilters = some old → old.flowMin.toNat ≤ par.flowMin.toNat) → Accepted s h 2 0x0021 (filterBody n par) →
      Completes (.setFilter h n par) s fun t => State.OnlyHallmark s t ∧ Answered s t h 0x0021 0 [] ∧
        FMap.find n t.hm.storedFilters = some par ∧ t.hm.filters = s.hm.filters) ∧
    (∀ net, Accepted s h 2 0x0022 (netBody net) → Completes (.setNet h net) s fun t => State.OnlyHallmark s t ∧
      Answered s t h 0x0022 0 [] ∧ t.hm.storedNet = net ∧ t.hm.net = s.hm.net) ∧
    ∀ id warn, sensorId id = true → Accepted s h 2 0x0023 (leBytes 2 id ++ leBytes 4 (BitVec.ofInt 32 warn).toNat) →
      Completes (.setThresh h id warn) s fun t => State.OnlyHallmark s t ∧ Answered s t h 0x0023 0 [] ∧
        t.hm.warn id = warn ∧ FMap.find id t.hm.storedThresh = some warn ∧ ∀ j, j ≠ id → t.hm.warn j = s.hm.warn j

/-- R379–R382, R378: firmware is staged, verified, activated, proved by its self-test and committed in turn, and
nothing of staging, verifying and activating is served while an activation runs; a FW_VERIFY with a body is malformed;
operator keys are set and revoked, never the last admin key; 1149.1 opens for a token that binds the module and the
nonce while no plan is loaded. R383: after a failed self-test a flash image that does not verify leaves the recovery loader.
That the staging area keeps which bytes have been staged, and that a failed self-test too is a restart, are the model's
choices (log entries 68 and 79). -/
def Obligations.FirmwareAndKeys : Prop :=
  ∀ (s : State) (h : Hmp),
    (∀ off data, data.length ≤ 1024 → off + data.length ≤ 0x800000 → Accepted s h 2 0x0030 (leBytes 8 off ++ data) →
      (s.hm.selfTest = false → Completes (.fwStage h off data) s fun t =>
        State.OnlyHallmark s t ∧ Answered s t h 0x0030 0 [] ∧ t.hm.verified = none ∧
        (∀ j x, data[j]? = some x → readByte t.hm.staging (off + j) = x) ∧
        ∀ a, ¬ (off ≤ a ∧ a < off + data.length) → readByte t.hm.staging a = readByte s.hm.staging a) ∧
      (s.hm.selfTest = true → Completes (.fwStage h off data) s fun t =>
        State.OnlyHallmark s t ∧ Answered s t h 0x0030 0x07 [] ∧ t.hm.staging = s.hm.staging)) ∧
    (Accepted s h 2 0x0031 [] → s.hm.selfTest = false → Completes (.fwVerify h []) s fun t => State.OnlyHallmark s t ∧
      if s.hm.stagedTo s.hm.stagedImage.length = true ∧ s.hm.imageOk s.hm.stagedImage = true then
        Answered s t h 0x0031 0 [] ∧ t.hm.verified = some s.hm.stagedImage
      else Answered s t h 0x0031 0x06 [] ∧ t.hm.verified = none) ∧
    (∀ b body, Accepted s h 2 0x0031 (b :: body) → s.hm.selfTest = false → Completes (.fwVerify h (b :: body)) s fun t =>
      State.OnlyHallmark s t ∧ Answered s t h 0x0031 0x01 [] ∧ t.hm.verified = s.hm.verified) ∧
    (∀ body, Accepted s h 2 0x0031 body → s.hm.selfTest = true → Completes (.fwVerify h body) s fun t =>
      State.OnlyHallmark s t ∧ Answered s t h 0x0031 0x07 [] ∧ t.hm.verified = s.hm.verified) ∧
    (Accepted s h 2 0x0032 [] → s.hm.selfTest = true → Completes (.fwActivate h) s fun t =>
      State.OnlyHallmark s t ∧ Answered s t h 0x0032 0x07 [] ∧ t.hm.running = s.hm.running) ∧
    (∀ img, s.hm.verified = some img → s.hm.selfTest = false → Accepted s h 2 0x0032 [] →
      Completes (.fwActivate h) s fun t => State.OnlyHallmark s t ∧ Answered s t h 0x0032 0 [] ∧
        t.hm.running = img ∧ t.hm.fwState = 1 ∧ t.hm.selfTest = true ∧ t.hm.flash = s.hm.flash ∧
        ∃ n, n ≤ 125000000 ∧ t.hm.answerAt = s.ticks + BitVec.ofNat 64 n) ∧
    (Accepted s h 2 0x0033 [] → Completes (.fwSvnCommit h) s fun t => State.OnlyHallmark s t ∧
      Answered s t h 0x0033 0 [] ∧ t.hm.svn = BitVec.ofNat 8 (max s.hm.svn.toNat (min 255 s.hm.running.svn))) ∧
    (∀ k role key, k < 4 → role ≤ 2 → Accepted s h 2 0x0040 (leBytes 1 k ++ leBytes 1 role ++ leBytes 133 key.toNat) →
      Completes (.keySet h k role key) s fun t => State.OnlyHallmark s t ∧
        Answered s t h 0x0040 0 [] ∧ (t.hm.key k).key = some key ∧ (t.hm.key k).role = role ∧
        ∀ j, j ≠ k → (t.hm.key j).key = (s.hm.key j).key ∧ (t.hm.key j).role = (s.hm.key j).role) ∧
    (∀ k, k < 4 → Accepted s h 2 0x0041 (leBytes 1 k) →
      let admin (j : Nat) : Prop := (s.hm.key j).key.isSome = true ∧ (s.hm.key j).role = 2
      (∀ j, j < 4 → j ≠ k → admin j → Completes (.keyRevoke h k) s fun t => State.OnlyHallmark s t ∧
        Answered s t h 0x0041 0 [] ∧ (t.hm.key k).key = none ∧
        ∀ j, j ≠ k → (t.hm.key j).key = (s.hm.key j).key) ∧
      (admin k → (∀ j, j < 4 → j ≠ k → ¬ admin j) → Completes (.keyRevoke h k) s fun t => State.OnlyHallmark s t ∧
        Answered s t h 0x0041 0x05 [] ∧ (t.hm.key k).key = (s.hm.key k).key)) ∧
    (∀ claim sig, s.allIdle = true → s.hm.tokenOk h.nonce (claim ++ sig) = true → Accepted s h 2 0x0060 (claim ++ sig) →
      Completes (.jtagUnlock h claim sig) s fun t => State.OnlyHallmark s t ∧
        Answered s t h 0x0060 0 [] ∧ t.hm.jtagOpen = true) ∧
    (s.Answers → h.slot = 0xFF → (∀ k, k < 4 → (s.hm.key k).key = none) →
      ∀ key, s.Turn h 0x0040 (leBytes 1 0 ++ leBytes 1 2 ++ leBytes 133 key.toNat) →
        Completes (.keySet h 0 2 key) s fun t => State.OnlyHallmark s t ∧ (t.hm.key 0).key = some key ∧
          (t.hm.key 0).role = 2) ∧
    (s.Up → s.hm.selfTest = true →
      (Completes (.fwSelfTestResult true) s fun t =>
        t = { s with hm := t.hm, boot := s.boot.add (.step 0x04 0xFFFF s.boot.start 0 0 0x00 0 0 0 0) } ∧
        t.hm.flash = s.hm.running ∧ t.hm.running = s.hm.running ∧ t.hm.fwState = 0 ∧ t.hm.selfTest = false) ∧
      Completes (.fwSelfTestResult false) s fun t => State.OnlyHallmark s t ∧ t.hm.flash = s.hm.flash ∧
        t.hm.running = s.hm.flash ∧
        (s.hm.imageOk s.hm.flash = true → t.hm.fwState = 0) ∧
        (s.hm.imageOk s.hm.flash = false → t.hm.fwState = 2 ∧ t.hm.alert.getLsbD 5 = true))

/-! ### Starts, supply, inputs, sensors and power -/

/-- R413, R414, R417, R418, R447, R454–R457: the supply charges where EN is joined and the input may run it, turns on and
off, and input power begins a power-on start with empty memory; a reset or a restart is a start of its kind, and every kind
but the Hallmark reset leaves no core running, while that one leaves cores and memory alone. A reset that comes while a step
hangs waits for that step's record. A step over its limit fails with reason 0x01. That a start runs within one command, that
it is told what its steps find, and which of its causes an INPUT_LOSS has, are the model's choices (log entries 73 and
74). -/
def Obligations.SupplyAndStarts : Prop :=
  (∀ s : State, s.fenceDue = [] →
    (let up : Bool := s.supply.inputOk && !s.supply.overVolt && !s.supply.lockedOff && !s.supply.on
     Completes .enJoined s fun t => t = { s with supply := { s.supply with
        en := true, charging := s.supply.charging || up, retryWait := s.supply.retryWait && !up } }) ∧
    (let up : Bool := s.supply.en && !s.supply.lockedOff && !s.supply.on
     Completes .inputTurnOn s fun t => t = { s with supply := { s.supply with
        inputOk := true, overVolt := false
        charging := s.supply.charging || up, retryWait := s.supply.retryWait && !up } }) ∧
    (s.supply.charging = true → Completes .inrushTimeout s fun t =>
      t = { s with supply := { s.supply with charging := false, retryWait := true } }) ∧
    (s.supply.retryWait = true → s.supply.on = false → Completes .inrushRetry s fun t =>
      t = if s.supply.en = true ∧ s.supply.inputOk = true ∧ s.supply.overVolt = false ∧ s.supply.lockedOff = false then
        { s with supply := { s.supply with charging := true, retryWait := false } } else s) ∧
    (∀ c, (c = .inputLoss ∨ c = .overVoltage ∨ (c = .thermtripTurnOff ∧ s.hm.trip = true)) →
      Completes c s fun t => t.Quiet ∧ t.mem = [] ∧ t.hm.log = [] ∧ t.hm.flash = s.hm.flash ∧ t.hm.table = s.hm.table ∧
        t.supply.on = false ∧ t.supply.charging = false ∧ t.supply.rails = 0 ∧ t.boot.half0 = s.boot.half0 ∧
        t.boot.half1 = s.boot.half1 ∧
        (c = .inputLoss → (t.supply.en = false ∨ t.supply.inputOk = false) ∧ t.supply.lockedOff = false ∧
          t.hm.thermtrip = false) ∧
        (c = .overVoltage → t.supply.overVolt = true ∧ t.supply.en = s.supply.en) ∧
        (c = .thermtripTurnOff → t.supply.lockedOff = true ∧ t.supply.en = s.supply.en)) ∧
    ∀ rep, s.supply.charging = true → Completes (.inputPowerGood rep) s fun t =>
      Started s t 0 ∧ t.Quiet ∧ ((∀ r ∈ s.hm.table, r.valid = false) → t.mem = []) ∧ t.supply.on = true ∧
      t.supply.charging = false ∧ t.supply.rails.getLsbD 0 = true ∧ t.supply.rails.getLsbD 1 = true) ∧
  (∀ (s : State) (h : Hmp) (rep : StartReport), s.NoInjection → s.boot.at_ = none →
    let passes : Prop := ∀ x ∈ rep.results, x.failed = false
    (Accepted s h 2 0x0070 (leBytes 1 1) → Completes (.moduleReset h rep) s fun t => Started s t 1 ∧ t.Quiet) ∧
    (Accepted s h 2 0x0070 (leBytes 1 2) → Completes (.computeReset h rep) s fun t =>
      Started s t 2 ∧ t.Quiet ∧ t.hm.flash = s.hm.flash) ∧
    (Accepted s h 2 0x0070 (leBytes 1 3) → Completes (.hallmarkReset h rep) s fun t =>
      Started s t 3 ∧ t.cores = s.cores ∧ t.mem = s.mem ∧ t.spines = s.spines ∧ (passes → t.ports = s.ports))) ∧
  ∀ (s : State) (rep : StartReport), s.Up →
    (s.boot.at_ = none → Completes (.hallmarkWatchdogExpiry rep) s fun t => Started s t 3 ∧ t.cores = s.cores ∧
      t.mem = s.mem ∧ t.spines = s.spines ∧ ((∀ x ∈ rep.results, x.failed = false) → t.ports = s.ports)) ∧
    (s.boot.at_ ≠ none → s.boot.resetDue = none → Completes (.hallmarkWatchdogExpiry rep) s fun t =>
      t = { s with boot := { s.boot with resetDue := some (3, rep) } }) ∧
    (s.boot.restartDue = true → s.NoInjection → Completes (.journalRestart rep) s fun t => Started s t 4 ∧ t.Quiet) ∧
    ∀ st u r, s.boot.at_ = some (st, u) → s.boot.resetDue = none → 4 ≤ st → (s.hm.filter 0).active = false →
      (s.hm.filter 3).active = false → r ∈ s.boot.records → r.incomplete s.boot.start = true →
      s.NoInjection → s.rewritten = [] → Completes (.startupStepLimit st u rep) s fun t =>
        t.boot.start = s.boot.start ∧ t.boot.kind = s.boot.kind ∧
        ∃ m a d e f, JRec.step st u s.boot.start m a 0x02 0x01 d e f ∈ t.boot.records

/-- R369–R372, R387, R404, R417: an input enters ACTIVE when the sample before called for it and acts as its row says; it
leaves after a full calm release period, and with it goes the alert of its activation; LEAK_N's leaving lets a step 0x08 that
waits for it run; it alerts when it is held; a sample moves its counts on, and the actions of inputs that meet in one apply
in the order of R371; the rising edges of a flow window give the rate. That a change acts at the sample after the one that
calls for it is the model's choice (log entry 66). -/
def Obligations.Inputs : Prop :=
  ∀ (s : State) (n : Nat) (f : Filter), s.Up → s.NoInjection → f = s.hm.filter n →
    let leaving (g : Filter) : Prop := g.active = true ∧ g.release.toNat ≤ g.lo ∧ g.release.toNat ≤ g.calm
    let others : Prop := ∀ m, m < 4 → m ≠ n → (s.hm.filter m).due = false ∧ ¬ leaving (s.hm.filter m)
    (n < 4 → f.active = false → f.started = true → (f.chat = true ∨ f.assert.toNat ≤ f.hi) → others →
      Completes (.inputFilterEnter n) s fun t => (t.hm.filter n).active = true ∧
        (n = 0 → t.hm.brake = true ∧ ∀ g, g < 48 → (t.gov g).floorTarget.isSome = true ∨ s.hm.leak = true ∨ s.hm.brake = true) ∧
        (n = 1 → (s.hm.filter 2).active = false → (s.hm.filter 3).active = false → ∀ p pl, p < 8 → (s.spine p).st = .loaded →
          (s.spine p).plan = some pl → pl.ckpt.isSome = true → (t.spine p).ingot.forcedPending = true) ∧
        (n = 1 → ((s.hm.filter 2).active = true ∨ (s.hm.filter 3).active = true) → State.OnlyHallmark s t) ∧
        (n = 2 → AllStopped s t 0x15) ∧ (n = 3 → AllStopped s t 0x1A ∧ t.hm.leak = true)) ∧
    (n < 4 → leaving f → others → (n = 3 → ∀ u, s.boot.at_ ≠ some (0x08, u)) →
      Completes (.inputFilterLeave n) s fun t => (t.hm.filter n).active = false ∧ (t.hm.filter n).alerted = false ∧
        (n = 0 → t.hm.brake = false) ∧ t.cores = s.cores ∧ t.mem = s.mem) ∧
    (∀ rep r, n = 3 → leaving f → others → s.boot.at_ = some (0x08, 0xFFFF) → s.boot.rep = some rep →
      s.boot.resetDue = none → (∀ x ∈ rep.results, x.step ≠ 0x08) → r ∈ s.boot.records →
      r.incomplete s.boot.start = true → s.rewritten = [] →
      Completes (.inputFilterLeave n) s fun t => (t.hm.filter n).active = false ∧
        ∃ m a, JRec.step 0x08 0xFFFF s.boot.start m a 0 0 0 0 0 ∈ t.boot.records) ∧
    (n < 4 → f.active = true → f.alerted = false → f.alertAfter ≠ 0 → f.alertAfter ≠ 0xFFFF →
      f.alertAfter.toNat * 10000 ≤ f.held → Completes (.inputHeldAlert n) s fun t => State.OnlyHallmark s t ∧
        (t.hm.filter n).alerted = true ∧ t.hm.alert.getLsbD (if n = 3 then 6 else 0) = true) ∧
    (∀ m low, n = 1 → m < 4 → 2 ≤ m → (s.hm.filter m).due = true → (s.hm.filter m).lo < (s.hm.filter m).release.toNat →
      f.due = true → s.boot.at_ = none → Completes (.inputSample n low) s fun t => (t.hm.filter m).active = true ∧
        ∀ p, p < 8 → (t.spine p).ingot.forcedPending = true → (s.spine p).ingot.forcedPending = true) ∧
    (∀ low, n < 4 → f.due = false → others → ¬ leaving f → f.started = true →
      Completes (.inputSample n low) s fun t => State.OnlyHallmark s t ∧
        let g := t.hm.filter n
        g.active = f.active ∧ g.prev = low ∧ g.hi = (if low then f.hi + 1 else 0) ∧ g.lo = (if low then 0 else f.lo + 1) ∧
        g.sinceEdge = (if low = f.prev then f.sinceEdge + 1 else 0) ∧
        g.chat = decide (low ≠ f.prev ∧ f.sinceEdge + 1 < f.minPulse.toNat) ∧
        g.calm = (if g.chat then 0 else f.calm + 1) ∧
        g.held = (if f.active = true ∧ (g.lo < f.release.toNat ∨ g.calm < f.release.toNat) then f.held + 1 else f.held)) ∧
    (∀ low, n < 4 → f.active = false → f.started = false → others → Completes (.inputSample n low) s fun t =>
      State.OnlyHallmark s t ∧ (t.hm.filter n).started = true ∧ (t.hm.filter n).active = false ∧
      (t.hm.filter n).prev = low ∧ (t.hm.filter n).hi = (if low then 1 else 0)) ∧
    (∀ low, n = 4 → f.started = true → Completes (.inputSample n low) s fun t => State.OnlyHallmark s t ∧
      let g := t.hm.filter 4
      g.hi = (if low then f.hi + 1 else 0) ∧ g.lo = (if low then 0 else f.lo + 1) ∧
      g.prev = (if low then f.prev || decide (f.minPulse.toNat ≤ g.hi) else f.prev && !decide (f.minPulse.toNat ≤ g.lo)) ∧
      t.hm.flowCount = s.hm.flowCount + (if f.prev = true ∧ g.prev = false then 1 else 0)) ∧
    Completes (.flowWindow ()) s fun t => State.OnlyHallmark s t ∧
      let rate := min 65535 (s.hm.flowCount * s.hm.ulPulse.toNat * 60 / 1000)
      t.hm.flowCount = 0 ∧ (t.hm.sensor 153).value = rate ∧ t.hm.flowRate = BitVec.ofNat 16 rate ∧
      t.hm.lowFlowMs = (if rate < s.hm.flowMin.toNat then s.hm.lowFlowMs + 1000 else 0) ∧
      (rate < s.hm.flowMin.toNat → (s.hm.filter 4).alertAfter ≠ 0xFFFF →
        (s.hm.filter 4).alertAfter.toNat ≤ s.hm.lowFlowMs + 1000 → t.hm.alert.getLsbD 2 = true)

/-- R365, R390, R392, R395, R397, R409: a sensor's reading reaches its record and the register that shows it, and a
missed one makes it stale, as a failed transaction makes a rail's telemetry; a cap that has been lifted for 1 ms rises
by one step; a relocked clock is switched to, and the core rail then stands at the voltage of the highest step that its
islands have or relock to; a stretched cycle is counted. That the reading before is judged by the threshold of its time is
the model's choice (log entry 66), as are that the switch ends a relock (log entry 70) and the trim of the voltages (log
entry 79). -/
def Obligations.SensorsAndClocks : Prop :=
  (∀ (s : State) (id : Nat) (v : Int), s.Up → sensorId id = true →
    (id ≠ 153 → Completes (.sensorSample id (some v)) s fun t =>
      t.hm.sensor id = { valid := true, stale := false, value := v, max := max (s.hm.sensor id).max v, missed := 0,
                            told := beyondWarn id v (s.hm.warn id) } ∧
      (∀ j, j ≠ id → t.hm.sensor j = s.hm.sensor j) ∧ t.mem = s.mem ∧ t.cores = s.cores ∧
      (id < 72 → (if id % 2 = 0 then (t.island (id / 2)).temp0 else (t.island (id / 2)).temp1) = BitVec.ofInt 16 (v.tdiv 10)) ∧
      (96 ≤ id → id < 132 → (t.island (id - 96)).vmin = BitVec.ofInt 16 v) ∧
      (132 ≤ id → id < 144 → (t.pkg (id - 132)).temp = BitVec.ofInt 8 (v.tdiv 1000)) ∧
      (beyondWarn id v (s.hm.warn id) = true → (s.hm.sensor id).told = false → t.hm.alert.getLsbD 1 = true)) ∧
    (id = 153 → Completes (.sensorSample id (some v)) s fun t => State.OnlyHallmark s t ∧
      (t.hm.sensor id).value = s.hm.flowRate.toNat) ∧
    (160 ≤ id → Completes (.sensorSample id none) s fun t => t.cores = s.cores ∧ t.mem = s.mem ∧
      (t.hm.sensor (160 + id % 16)).stale = true ∧ (t.hm.sensor (176 + id % 16)).stale = true ∧
      (FMap.find 0x11 (FMap.getD t.hm.ports 57 [])).isSome = true) ∧
    (id < 160 → Completes (.sensorSample id none) s fun t => State.OnlyHallmark s t ∧
      (t.hm.sensor id).value = (s.hm.sensor id).value ∧
      ((t.hm.sensor id).stale = true ↔ (s.hm.sensor id).stale = true ∨ 1 ≤ (s.hm.sensor id).missed))) ∧
  ∀ (s : State) (i : Nat) (x : Island), s.Up → i < 36 → x = s.island i →
    (100 ≤ FMap.getD s.hm.throttleOk i 0 → x.capStep ≠ 0 → Completes (.throttleStepUp i) s fun t =>
      (t.island i).capStep = x.capStep - 1 ∧ (t.island i).step = x.step ∧ FMap.find i t.hm.throttleOk = none ∧
      (t.island i).relock = (if max (x.capStep - 1) x.planStep = x.step then none else some (max (x.capStep - 1) x.planStep)) ∧
      t.cores = s.cores) ∧
    (∀ k, x.relock = some k → Completes (.clockStepSwitch i) s fun t =>
      t = { s with islands := t.islands, hm := { s.hm with railMv := t.hm.railMv } } ∧
      (∀ j, j ≠ i → t.island j = s.island j) ∧ (t.island i).step = k ∧ (t.island i).relock = none ∧
      ∃ top, FMap.find (railOf i) t.hm.railMv = some (stepMv top) ∧
        (∀ j ∈ railIslands (railOf i), top ≤ (t.island j).step ∧ ∀ n, (t.island j).relock = some n → top ≤ n) ∧
        (top = 8 ∨ ∃ j ∈ railIslands (railOf i), top = (t.island j).step ∨ (t.island j).relock = some top)) ∧
    (x.clockLost = false → Completes (.clockStretch i) s fun t =>
      t = s.setIsland i { x with stretched := satAdd x.stretched 1 })

/-- R399: in one tick the changes of the allowed levels that are admitted sum to no more than the budget, up or down, and
no island moves against its request or past it.
R400–R403: a governor's tick takes the draws and sets Ballast and the gates from them; a ramp whose level is allowed
clears its entry; an island that has stayed below its level winds down. Whole
milliwatts, a ramp's level rounded toward zero and the share of the budget rounded down are the model's choices (log entry
69). -/
def Obligations.Governor : Prop :=
 (∀ (b : Nat) (req : List (Nat × Int)),
    (((admitted b req).1.map Prod.snd).sum ≤ b ∧ -(b : Int) ≤ ((admitted b req).1.map Prod.snd).sum) ∧
    ∀ g v, (g, v) ∈ (admitted b req).1 → ∃ w, (g, w) ∈ req ∧ ((0 ≤ v ∧ v ≤ w) ∨ (w ≤ v ∧ v ≤ 0))) ∧
  (∀ (s : State) (draw : FMap Nat), s.Up → Completes (.governorTick draw) s fun t =>
    t.mem = s.mem ∧ t.cores = s.cores ∧ t.spines = s.spines ∧ ∀ g, g < 48 →
      (t.gov g).estimate = FMap.getD draw g (s.gov g).estimate ∧
      (t.gov g).ballast = (t.gov g).allowed - (t.gov g).estimate ∧
      (t.gov g).gateClosed = decide ((t.gov g).allowed < (t.gov g).estimate) ∧
      (t.gov g).planned = (s.gov g).advance.planned) ∧
  (∀ (s : State) (i site ctx sb : Nat) (r : Ramp), s.Up → i < 36 → (s.gov i).ramp = some r → r.windDown = false →
    r.owner = some (site, ctx, sb) → sb < 8 → (s.gov i).allowed = r.target →
    Completes (.rampComplete i) s fun t =>
      ((t.core site).thread ctx).sbPending sb = false ∧ (∀ x, (t.gov i).ramp = some x → x.owner = none) ∧
      (∀ j, j ≠ site → t.core j = s.core j) ∧ t.mem = s.mem) ∧
  ∀ (s : State) (g : Nat), s.Up → g < 48 → (s.gov g).moving = false → s.hm.govIdle.toNat ≤ (s.gov g).idleTicks →
    Completes (.idleWindDown g) s fun t =>
      (t.gov g).idleTicks = 0 ∧ (∃ r, (t.gov g).ramp = some r ∧ r.windDown = true ∧ r.from_ = (s.gov g).planned ∧
        r.target = (if g < 36 then (s.island g).calRest.toNat else (s.gov g).rest) ∧ r.tick = 0) ∧
      t.cores = s.cores ∧ t.mem = s.mem

/-- R311, R323, R324, R367, R392, R410: a fault of an island fences its good cores, and a lost clock stops the allotment;
an uncorrected error of a core fences it; a controller fault fences the package and a spine fault stops the allotment; a
rail fault and a thermal trip act on what they serve. R389, R391: an island without cores that loses its clock, or whose
crossing times out, is reported with class 0x0B. R408: the comparators that trip are those of the dies and the
packages. Whose step an island without cores takes with it is the model's choice (log entries 67 and 79). -/
def Obligations.FaultsFenceUnits : Prop :=
  ∀ s : State, s.Up → s.NoInjection →
    (∀ c i, ((c = .islandClockLoss i ∧ (s.island i).clockLost = false) ∨ c = .handshakeTimeout i ∨
        c = .droopBeyondLimit i) → i < 36 →
      Completes c s fun t =>
        (∀ x, islandOf x = i → s.boot.badSites.contains x = false →
          (t.core x).fenced = true ∧ ((s.core x).fenced = false → (t.core x).hold = true ∧ (t.core x).threads = [])) ∧
        (c = .islandClockLoss i → (t.island i).clockLost = true ∧ ∀ p, s.allotOfIsland i = some p →
          (s.spine p).st = .loaded → (s.spine p).plan.isSome = true →
          (t.spine p).st = .stopped ∧ (t.spine p).stopReason = 0x14)) ∧
    (∀ c i, ((c = .islandClockLoss i ∧ s.lostClocks.contains i = false) ∨ c = .handshakeTimeout i) → 36 ≤ i → i < 60 →
      Completes c s fun t => (c = .islandClockLoss i → t.lostClocks.contains i = true) ∧
        (FMap.find 0x0B (FMap.getD t.hm.ports i [])).isSome = true) ∧
    (∀ x, x < 576 → s.boot.badSites.contains x = false → (s.core x).fenced = false →
      (Completes (.coreStateError x .uncorrected) s fun t => (t.core x).fenced = true ∧ (t.core x).hold = true ∧
        (t.island (islandOf x)).coreFence.getLsbD (posOf x) = true) ∧
      Completes (.coreStateError x .correctable) s fun t => t.cores = s.cores ∧ t.mem = s.mem ∧
        (FMap.find 0x06 (FMap.getD t.hm.ports (islandOf x) [])).isSome = true) ∧
    (∀ n, n < 12 → (s.pkg n).fenced = false → Completes (.memoryControllerFault n) s fun t => (t.pkg n).fenced = true ∧
      ∀ p, s.allotOfPkg n = some p → (s.spine p).st = .loaded → (s.spine p).plan.isSome = true →
        (t.spine p).st = .stopped ∧ (t.spine p).stopReason = 0x13) ∧
    (∀ p, p < 8 → (s.record p).isSome = true → (s.spine p).st = .loaded → (s.spine p).plan.isSome = true →
      Completes (.spineFault p) s fun t => (t.spine p).st = .stopped ∧ (t.spine p).stopReason = 0x16 ∧
        ∀ q, q ≠ p → t.spine q = s.spine q) ∧
    (∀ k, k < 16 → Completes (.railFault k) s fun t => t.hm.alert.getLsbD 3 = true ∧ t.hm.railFaults.getLsbD k = true ∧
      (2 ≤ k → k ≤ 10 → ∀ x, x < 576 → rowOf (islandOf x) / 2 = (k - 2) / 3 → colOf (islandOf x) / 2 = (k - 2) % 3 →
        s.boot.badSites.contains x = false → (t.core x).fenced = true) ∧
      (k < 2 ∨ 10 < k → AllStopped s t 0x19)) ∧
    ∀ id, id < 96 ∨ (132 ≤ id ∧ id < 148) → Completes (.thermalTrip id) s fun t =>
      t.hm.thermtrip = true ∧ t.hm.trip = true ∧ AllStopped s t 0x1B

/-- R312, R314, R320, R374, R375: the log intake takes the next port in turn and writes the record at HM_LOG_HEAD, and
the head moves on; a patrol read of a line without an error changes nothing but its position, and one that meets
poison reports it. The order of classes within a port's turn is the model's choice (log entry 65), as is the finding
that a row carries (log entry 72). -/
def Obligations.LogAndScrub : Prop :=
  (∀ (s : State) (r : LogRec) (rest : List LogRec), s.Up → s.hm.ports = [] → s.hm.hwQueue = r :: rest →
    Completes .logIntake s fun t => State.OnlyHallmark s t ∧ t.hm.hwQueue = rest ∧ t.hm.logHead = s.hm.logHead + 1 ∧
      FMap.find (s.hm.logHead % 16384) t.hm.log =
        some { r with seq := s.hm.logHead, time := s.ticks - s.hm.cntBase }) ∧
  (∀ (s : State) (k cls : Nat) (c : Coalesce) (l : FMap Coalesce) (before rest : FMap (FMap Coalesce)), s.Up →
    s.hm.ports = before ++ (k, (cls, c) :: l) :: rest → (∀ x ∈ before, x.1 < s.hm.intakeAt.1) →
    (s.hm.intakeAt.1 < k ∨ (s.hm.intakeAt.1 = k ∧ s.hm.intakeAt.2 ≤ cls)) → Completes .logIntake s fun t => State.OnlyHallmark s t ∧
      t.hm.hwQueue = s.hm.hwQueue ∧ t.hm.logHead = s.hm.logHead + 1 ∧ t.hm.intakeAt = (k, cls + 1) ∧
      ∃ r, FMap.find (s.hm.logHead % 16384) t.hm.log = some r ∧ r.seq = s.hm.logHead ∧ r.count = c.count ∧ r.ovf = c.ovf ∧
        r.kind = (if c.count = 1 ∧ c.ovf = 0 then 1 else 2) ∧ r.body = c.first.bytes) ∧
  (∀ (s : State) (x pos word : Nat), s.Up → s.injected = [] → x < 576 → s.sliceOk x = true →
    (s.island (islandOf x)).clockLost = false → pos = FMap.getD (s.island (islandOf x)).scrubPos (posOf x) 0 →
    s.poisoned (sliceBase x + 64 * pos) 64 = false →
    Completes (.sliceScrubRead { site := x, word } .clean) s fun t => t = s.setIsland (islandOf x) (t.island (islandOf x)) ∧
      FMap.getD (t.island (islandOf x)).scrubPos (posOf x) 0 = (pos + 1) % (sliceSize / 64)) ∧
  ∀ (s : State) (n : Nat), s.Up → s.injected = [] → n < 12 → s.pkgOk n = true → s.pkgStalled n = false →
    Completes (.packageScrubRead n .clean) s fun t => t.mem = s.mem ∧ t.cores = s.cores ∧ t.islands = s.islands ∧
      (t.pkg n).scrubPos = ((s.pkg n).scrubPos + 1) % (0x1200000000 / 64) ∧
      (s.poisoned (lpBase n + 64 * (s.pkg n).scrubPos) 64 = true →
        (FMap.find 0x04 (FMap.getD t.hm.ports (36 + n) [])).isSome = true)

/-! ### Values and words the manual writes out -/

/-- R431: the Reset columns of registers of every block whose row gives a value other than 0, with nothing bound, nothing
in memory and no command waiting. -/
def Obligations.ResetValues : Prop :=
  let v (b : Block) (o : Nat) : Word := State.reset.regValue b o
  State.reset.mem = [] ∧ State.reset.hm.inForce = [] ∧ State.reset.pending = [] ∧ State.reset.Quiet ∧
  (∀ x, x < 576 → v (.core x) 0x10 = 0x1000000000000000 ∧ v (.core x) 0x40 = 0x00001E0000400002 ∧
    v (.core x) 0x80 = 0x43 ∧ v (.core x) 0x88 = 0 ∧ v (.core x) 0xB0 = 0xFFFFFFFFFFFFFFFF ∧
    v (.core x) 0x190 = 0x10FFFFFFFFFFFFFF) ∧
  (∀ i, i < 36 → v (.island i) 0x38 = 0x00550A0000000000 ∧ v (.island i) 0x58 = 0x780032 ∧
    v (.island i) 0x3008 = 0xFFFFFFFFFFFFFFFF ∧ v (.island i) 0x3308 = 0x10000010) ∧
  (∀ n, n < 12 → v (.mem n) 0x1018 = 0x1000000000000000 ∧ v (.mem n) 0x1108 = 0x40000008) ∧
  (∀ p, p < 8 → v (.port p) 0x210 = 0x10000 ∧ v .spine (0x1000 * p) = 1 ∧
    v .spine (0x1000 * p + 0x08) = 0x7F8000007F800000 ∧ v .spine (0x1000 * p + 0x10) = 0x180003E84F4F0000 ∧
    v .spine (0x1000 * p + 0x18) = 0x1000000000000000 ∧ v .spine (0x1000 * p + 0x20) = 0x1000000000000000 ∧
    v .spine (0x1000 * p + 0x100) = 1 ∧ v .spine (0x1000 * p + 0x108) = 0xFFFFFFFFFFFFFFFF ∧
    v .spine (0x1000 * p + 0x118) = 0x83) ∧
  v .hallmark 0x300 = 0x01901003E8000000

/-- R361: an allotment's instructions change no core, island, package, port or spine partition of another allotment, nor a
byte of memory, apart from the step they abandon, which is their own allotment's; and EXPORT, WALL_MARK and QUERY of its
host change none either. Stated where the records share no island or package (R348), no injected error stands, the tiles of
the plan lie in islands of the allotment (R151), and a ramp's owner is a core of the ramp's island. -/
def Obligations.AllotmentsAreIsolated : Prop :=
  ∀ (s t : State) (p q : Nat), s.Up → s.NoInjection → s.Partitioned → q ≠ p →
    (∀ site w x, site < 576 → decode site w = some x → s.allotOfSite site = some p →
      (∀ pl w, (s.spine p).plan = some pl → w ∈ pl.works →
        s.allotOfIsland (islandOf (w.valueAddr.addr pl.sites / sliceSize)) = some p) →
      (∀ r st y, (s.gov (islandOf site)).ramp = some r → r.owner = some (st, y) → islandOf st = islandOf site) →
      exec x s = .next t → ∃ u, (t = u ∨ t = (u.abandonStep p).settleFences) ∧
        State.Apart q s u ∧ u.mem = s.mem ∧ u.hostMem = s.hostMem) ∧
    ∀ k c, c ∈ [Instr.exportCut p k, Instr.wallMark p k, Instr.query p k] → exec c s = .next t →
      State.Apart q s t ∧ t.mem = s.mem
end

