-- ==== Sys2Proof/Laws/Maps.lean ====
section
/-! SUPPORT. What the sparse maps do: reading a key after it is inserted or erased, and every other key unchanged. -/

namespace Sys2Proof

variable {α : Type}

/-- An entry that a map answers stands in it. -/
theorem FMap.find_mem {k : Nat} {v : α} : ∀ {m : FMap α}, FMap.find k m = some v → (k, v) ∈ m
  | (k', v') :: t, h => by
    unfold FMap.find at h
    split at h
    · rename_i e
      cases e
      cases h
      exact List.mem_cons_self ..
    · exact List.mem_cons_of_mem _ (FMap.find_mem h)

@[simp] theorem FMap.find_nil (k : Nat) : FMap.find k ([] : FMap α) = none := rfl

theorem FMap.find_insert (k j : Nat) (v : α) (m : FMap α) :
    FMap.find j (FMap.insert k v m) = if k = j then some v else FMap.find j m := by
  induction m with
  | nil => simp [FMap.insert, FMap.find]
  | cons x t ih =>
    obtain ⟨k', v'⟩ := x
    unfold FMap.insert
    by_cases h1 : k < k'
    · rw [if_pos h1]
      simp [FMap.find]
    · rw [if_neg h1]
      by_cases h2 : k = k'
      · subst h2
        rw [if_pos rfl]
        by_cases h3 : k = j <;> simp [FMap.find, h3]
      · rw [if_neg h2]
        simp only [FMap.find, ih]
        by_cases h3 : k' = j
        · have : k ≠ j := fun h => h2 (h.trans h3.symm)
          simp [h3, this]
        · simp [h3]

theorem FMap.find_insert_ne {k j : Nat} (h : j ≠ k) (v : α) (m : FMap α) :
    FMap.find j (FMap.insert k v m) = FMap.find j m := by
  rw [FMap.find_insert, if_neg (Ne.symm h)]

@[simp] theorem FMap.find_insert_self (k : Nat) (v : α) (m : FMap α) :
    FMap.find k (FMap.insert k v m) = some v := by
  rw [FMap.find_insert, if_pos rfl]

@[simp] theorem FMap.getD_nil (k : Nat) (d : α) : FMap.getD ([] : FMap α) k d = d := rfl

@[simp] theorem FMap.getD_insert_self (k : Nat) (v : α) (m : FMap α) (d : α) :
    FMap.getD (FMap.insert k v m) k d = v := by
  simp [FMap.getD]

theorem FMap.getD_insert_ne {k j : Nat} (h : j ≠ k) (v : α) (m : FMap α) (d : α) :
    FMap.getD (FMap.insert k v m) j d = FMap.getD m j d := by
  simp [FMap.getD, FMap.find_insert_ne h]

theorem FMap.find_erase (k j : Nat) (m : FMap α) :
    FMap.find j (FMap.erase k m) = if k = j then none else FMap.find j m := by
  induction m with
  | nil => simp [FMap.erase, FMap.find]
  | cons x t ih =>
    obtain ⟨k', v'⟩ := x
    unfold FMap.erase at ih ⊢
    by_cases h1 : k' = k
    · subst h1
      rw [List.filter_cons_of_neg (by simp), ih]
      by_cases h2 : k' = j <;> simp [FMap.find, h2]
    · rw [List.filter_cons_of_pos (by simpa using h1)]
      simp only [FMap.find, ih]
      by_cases h2 : k' = j
      · have : k ≠ j := fun h => h1 (h2.trans h.symm)
        simp [h2, this]
      · simp [h2]

@[simp] theorem FMap.find_erase_self (k : Nat) (m : FMap α) : FMap.find k (FMap.erase k m) = none := by
  rw [FMap.find_erase, if_pos rfl]

theorem FMap.find_erase_ne {k j : Nat} (h : j ≠ k) (m : FMap α) :
    FMap.find j (FMap.erase k m) = FMap.find j m := by
  rw [FMap.find_erase, if_neg (Ne.symm h)]

@[simp] theorem FMap.getD_erase_self (k : Nat) (m : FMap α) (d : α) : FMap.getD (FMap.erase k m) k d = d := by
  simp [FMap.getD]

theorem FMap.getD_erase_ne {k j : Nat} (h : j ≠ k) (m : FMap α) (d : α) :
    FMap.getD (FMap.erase k m) j d = FMap.getD m j d := by
  simp [FMap.getD, FMap.find_erase_ne h]

end Sys2Proof
end

