-- ==== Sys2Proof/Laws/State.lean ====
section
/-! SUPPORT. What each update of a state, a core or a thread leaves unchanged, one lemma per field per update, and what a
unit reads after a unit of its kind was set. -/

namespace Sys2Proof.Machine

/-! ### State -/

theorem State.modCore_eq (s : State) (i : Nat) (f : Core → Core) : s.modCore i f = s.setCore i (f (s.core i)) := rfl
@[simp] theorem State.core_setCore (s : State) (i : Nat) (c : Core) : (s.setCore i c).core i = c := by
  simp [State.core, State.setCore]
theorem State.core_setCore_ne (s : State) (i : Nat) (c : Core) {j : Nat} (h : j ≠ i) : (s.setCore i c).core j = s.core j := by
  simp [State.core, State.setCore, FMap.getD_insert_ne h]
@[simp] theorem State.island_setCore (s : State) (i : Nat) (c : Core) (j : Nat) : (s.setCore i c).island j = s.island j := rfl
@[simp] theorem State.pkg_setCore (s : State) (i : Nat) (c : Core) (j : Nat) : (s.setCore i c).pkg j = s.pkg j := rfl
@[simp] theorem State.spine_setCore (s : State) (i : Nat) (c : Core) (j : Nat) : (s.setCore i c).spine j = s.spine j := rfl
@[simp] theorem State.port_setCore (s : State) (i : Nat) (c : Core) (j : Nat) : (s.setCore i c).port j = s.port j := rfl
@[simp] theorem State.mem_setCore (s : State) (i : Nat) (c : Core) : (s.setCore i c).mem = s.mem := rfl
@[simp] theorem State.hostMem_setCore (s : State) (i : Nat) (c : Core) : (s.setCore i c).hostMem = s.hostMem := rfl
@[simp] theorem State.poisonWords_setCore (s : State) (i : Nat) (c : Core) : (s.setCore i c).poisonWords = s.poisonWords := rfl
@[simp] theorem State.poisonLines_setCore (s : State) (i : Nat) (c : Core) : (s.setCore i c).poisonLines = s.poisonLines := rfl
@[simp] theorem State.islands_setCore (s : State) (i : Nat) (c : Core) : (s.setCore i c).islands = s.islands := rfl
@[simp] theorem State.packages_setCore (s : State) (i : Nat) (c : Core) : (s.setCore i c).packages = s.packages := rfl
@[simp] theorem State.spines_setCore (s : State) (i : Nat) (c : Core) : (s.setCore i c).spines = s.spines := rfl
@[simp] theorem State.ports_setCore (s : State) (i : Nat) (c : Core) : (s.setCore i c).ports = s.ports := rfl
@[simp] theorem State.signals_setCore (s : State) (i : Nat) (c : Core) : (s.setCore i c).signals = s.signals := rfl
@[simp] theorem State.injected_setCore (s : State) (i : Nat) (c : Core) : (s.setCore i c).injected = s.injected := rfl
@[simp] theorem State.errUnits_setCore (s : State) (i : Nat) (c : Core) : (s.setCore i c).errUnits = s.errUnits := rfl
@[simp] theorem State.rewritten_setCore (s : State) (i : Nat) (c : Core) : (s.setCore i c).rewritten = s.rewritten := rfl
@[simp] theorem State.remaps_setCore (s : State) (i : Nat) (c : Core) : (s.setCore i c).remaps = s.remaps := rfl
@[simp] theorem State.lostClocks_setCore (s : State) (i : Nat) (c : Core) : (s.setCore i c).lostClocks = s.lostClocks := rfl
@[simp] theorem State.fenceDue_setCore (s : State) (i : Nat) (c : Core) : (s.setCore i c).fenceDue = s.fenceDue := rfl
@[simp] theorem State.hm_setCore (s : State) (i : Nat) (c : Core) : (s.setCore i c).hm = s.hm := rfl
@[simp] theorem State.boot_setCore (s : State) (i : Nat) (c : Core) : (s.setCore i c).boot = s.boot := rfl
@[simp] theorem State.supply_setCore (s : State) (i : Nat) (c : Core) : (s.setCore i c).supply = s.supply := rfl
@[simp] theorem State.ticks_setCore (s : State) (i : Nat) (c : Core) : (s.setCore i c).ticks = s.ticks := rfl
@[simp] theorem State.free_setCore (s : State) (i : Nat) (c : Core) : (s.setCore i c).free = s.free := rfl
@[simp] theorem State.pending_setCore (s : State) (i : Nat) (c : Core) : (s.setCore i c).pending = s.pending := rfl

theorem State.modIsland_eq (s : State) (i : Nat) (f : Island → Island) : s.modIsland i f = s.setIsland i (f (s.island i)) := rfl
@[simp] theorem State.island_setIsland (s : State) (i : Nat) (c : Island) : (s.setIsland i c).island i = c := by
  simp [State.island, State.setIsland]
theorem State.island_setIsland_ne (s : State) (i : Nat) (c : Island) {j : Nat} (h : j ≠ i) : (s.setIsland i c).island j = s.island j := by
  simp [State.island, State.setIsland, FMap.getD_insert_ne h]
@[simp] theorem State.core_setIsland (s : State) (i : Nat) (c : Island) (j : Nat) : (s.setIsland i c).core j = s.core j := rfl
@[simp] theorem State.pkg_setIsland (s : State) (i : Nat) (c : Island) (j : Nat) : (s.setIsland i c).pkg j = s.pkg j := rfl
@[simp] theorem State.spine_setIsland (s : State) (i : Nat) (c : Island) (j : Nat) : (s.setIsland i c).spine j = s.spine j := rfl
@[simp] theorem State.port_setIsland (s : State) (i : Nat) (c : Island) (j : Nat) : (s.setIsland i c).port j = s.port j := rfl
@[simp] theorem State.mem_setIsland (s : State) (i : Nat) (c : Island) : (s.setIsland i c).mem = s.mem := rfl
@[simp] theorem State.hostMem_setIsland (s : State) (i : Nat) (c : Island) : (s.setIsland i c).hostMem = s.hostMem := rfl
@[simp] theorem State.poisonWords_setIsland (s : State) (i : Nat) (c : Island) : (s.setIsland i c).poisonWords = s.poisonWords := rfl
@[simp] theorem State.poisonLines_setIsland (s : State) (i : Nat) (c : Island) : (s.setIsland i c).poisonLines = s.poisonLines := rfl
@[simp] theorem State.cores_setIsland (s : State) (i : Nat) (c : Island) : (s.setIsland i c).cores = s.cores := rfl
@[simp] theorem State.packages_setIsland (s : State) (i : Nat) (c : Island) : (s.setIsland i c).packages = s.packages := rfl
@[simp] theorem State.spines_setIsland (s : State) (i : Nat) (c : Island) : (s.setIsland i c).spines = s.spines := rfl
@[simp] theorem State.ports_setIsland (s : State) (i : Nat) (c : Island) : (s.setIsland i c).ports = s.ports := rfl
@[simp] theorem State.signals_setIsland (s : State) (i : Nat) (c : Island) : (s.setIsland i c).signals = s.signals := rfl
@[simp] theorem State.injected_setIsland (s : State) (i : Nat) (c : Island) : (s.setIsland i c).injected = s.injected := rfl
@[simp] theorem State.errUnits_setIsland (s : State) (i : Nat) (c : Island) : (s.setIsland i c).errUnits = s.errUnits := rfl
@[simp] theorem State.rewritten_setIsland (s : State) (i : Nat) (c : Island) : (s.setIsland i c).rewritten = s.rewritten := rfl
@[simp] theorem State.remaps_setIsland (s : State) (i : Nat) (c : Island) : (s.setIsland i c).remaps = s.remaps := rfl
@[simp] theorem State.lostClocks_setIsland (s : State) (i : Nat) (c : Island) : (s.setIsland i c).lostClocks = s.lostClocks := rfl
@[simp] theorem State.fenceDue_setIsland (s : State) (i : Nat) (c : Island) : (s.setIsland i c).fenceDue = s.fenceDue := rfl
@[simp] theorem State.hm_setIsland (s : State) (i : Nat) (c : Island) : (s.setIsland i c).hm = s.hm := rfl
@[simp] theorem State.boot_setIsland (s : State) (i : Nat) (c : Island) : (s.setIsland i c).boot = s.boot := rfl
@[simp] theorem State.supply_setIsland (s : State) (i : Nat) (c : Island) : (s.setIsland i c).supply = s.supply := rfl
@[simp] theorem State.ticks_setIsland (s : State) (i : Nat) (c : Island) : (s.setIsland i c).ticks = s.ticks := rfl
@[simp] theorem State.free_setIsland (s : State) (i : Nat) (c : Island) : (s.setIsland i c).free = s.free := rfl
@[simp] theorem State.pending_setIsland (s : State) (i : Nat) (c : Island) : (s.setIsland i c).pending = s.pending := rfl

theorem State.modPkg_eq (s : State) (i : Nat) (f : Package → Package) : s.modPkg i f = s.setPkg i (f (s.pkg i)) := rfl
@[simp] theorem State.pkg_setPkg (s : State) (i : Nat) (c : Package) : (s.setPkg i c).pkg i = c := by
  simp [State.pkg, State.setPkg]
theorem State.pkg_setPkg_ne (s : State) (i : Nat) (c : Package) {j : Nat} (h : j ≠ i) : (s.setPkg i c).pkg j = s.pkg j := by
  simp [State.pkg, State.setPkg, FMap.getD_insert_ne h]
@[simp] theorem State.core_setPkg (s : State) (i : Nat) (c : Package) (j : Nat) : (s.setPkg i c).core j = s.core j := rfl
@[simp] theorem State.island_setPkg (s : State) (i : Nat) (c : Package) (j : Nat) : (s.setPkg i c).island j = s.island j := rfl
@[simp] theorem State.spine_setPkg (s : State) (i : Nat) (c : Package) (j : Nat) : (s.setPkg i c).spine j = s.spine j := rfl
@[simp] theorem State.port_setPkg (s : State) (i : Nat) (c : Package) (j : Nat) : (s.setPkg i c).port j = s.port j := rfl
@[simp] theorem State.mem_setPkg (s : State) (i : Nat) (c : Package) : (s.setPkg i c).mem = s.mem := rfl
@[simp] theorem State.hostMem_setPkg (s : State) (i : Nat) (c : Package) : (s.setPkg i c).hostMem = s.hostMem := rfl
@[simp] theorem State.poisonWords_setPkg (s : State) (i : Nat) (c : Package) : (s.setPkg i c).poisonWords = s.poisonWords := rfl
@[simp] theorem State.poisonLines_setPkg (s : State) (i : Nat) (c : Package) : (s.setPkg i c).poisonLines = s.poisonLines := rfl
@[simp] theorem State.cores_setPkg (s : State) (i : Nat) (c : Package) : (s.setPkg i c).cores = s.cores := rfl
@[simp] theorem State.islands_setPkg (s : State) (i : Nat) (c : Package) : (s.setPkg i c).islands = s.islands := rfl
@[simp] theorem State.spines_setPkg (s : State) (i : Nat) (c : Package) : (s.setPkg i c).spines = s.spines := rfl
@[simp] theorem State.ports_setPkg (s : State) (i : Nat) (c : Package) : (s.setPkg i c).ports = s.ports := rfl
@[simp] theorem State.signals_setPkg (s : State) (i : Nat) (c : Package) : (s.setPkg i c).signals = s.signals := rfl
@[simp] theorem State.injected_setPkg (s : State) (i : Nat) (c : Package) : (s.setPkg i c).injected = s.injected := rfl
@[simp] theorem State.errUnits_setPkg (s : State) (i : Nat) (c : Package) : (s.setPkg i c).errUnits = s.errUnits := rfl
@[simp] theorem State.rewritten_setPkg (s : State) (i : Nat) (c : Package) : (s.setPkg i c).rewritten = s.rewritten := rfl
@[simp] theorem State.remaps_setPkg (s : State) (i : Nat) (c : Package) : (s.setPkg i c).remaps = s.remaps := rfl
@[simp] theorem State.lostClocks_setPkg (s : State) (i : Nat) (c : Package) : (s.setPkg i c).lostClocks = s.lostClocks := rfl
@[simp] theorem State.fenceDue_setPkg (s : State) (i : Nat) (c : Package) : (s.setPkg i c).fenceDue = s.fenceDue := rfl
@[simp] theorem State.hm_setPkg (s : State) (i : Nat) (c : Package) : (s.setPkg i c).hm = s.hm := rfl
@[simp] theorem State.boot_setPkg (s : State) (i : Nat) (c : Package) : (s.setPkg i c).boot = s.boot := rfl
@[simp] theorem State.supply_setPkg (s : State) (i : Nat) (c : Package) : (s.setPkg i c).supply = s.supply := rfl
@[simp] theorem State.ticks_setPkg (s : State) (i : Nat) (c : Package) : (s.setPkg i c).ticks = s.ticks := rfl
@[simp] theorem State.free_setPkg (s : State) (i : Nat) (c : Package) : (s.setPkg i c).free = s.free := rfl
@[simp] theorem State.pending_setPkg (s : State) (i : Nat) (c : Package) : (s.setPkg i c).pending = s.pending := rfl

theorem State.modSpine_eq (s : State) (i : Nat) (f : Spine → Spine) : s.modSpine i f = s.setSpine i (f (s.spine i)) := rfl
@[simp] theorem State.spine_setSpine (s : State) (i : Nat) (c : Spine) : (s.setSpine i c).spine i = c := by
  simp [State.spine, State.setSpine]
theorem State.spine_setSpine_ne (s : State) (i : Nat) (c : Spine) {j : Nat} (h : j ≠ i) : (s.setSpine i c).spine j = s.spine j := by
  simp [State.spine, State.setSpine, FMap.getD_insert_ne h]
@[simp] theorem State.core_setSpine (s : State) (i : Nat) (c : Spine) (j : Nat) : (s.setSpine i c).core j = s.core j := rfl
@[simp] theorem State.island_setSpine (s : State) (i : Nat) (c : Spine) (j : Nat) : (s.setSpine i c).island j = s.island j := rfl
@[simp] theorem State.pkg_setSpine (s : State) (i : Nat) (c : Spine) (j : Nat) : (s.setSpine i c).pkg j = s.pkg j := rfl
@[simp] theorem State.port_setSpine (s : State) (i : Nat) (c : Spine) (j : Nat) : (s.setSpine i c).port j = s.port j := rfl
@[simp] theorem State.mem_setSpine (s : State) (i : Nat) (c : Spine) : (s.setSpine i c).mem = s.mem := rfl
@[simp] theorem State.hostMem_setSpine (s : State) (i : Nat) (c : Spine) : (s.setSpine i c).hostMem = s.hostMem := rfl
@[simp] theorem State.poisonWords_setSpine (s : State) (i : Nat) (c : Spine) : (s.setSpine i c).poisonWords = s.poisonWords := rfl
@[simp] theorem State.poisonLines_setSpine (s : State) (i : Nat) (c : Spine) : (s.setSpine i c).poisonLines = s.poisonLines := rfl
@[simp] theorem State.cores_setSpine (s : State) (i : Nat) (c : Spine) : (s.setSpine i c).cores = s.cores := rfl
@[simp] theorem State.islands_setSpine (s : State) (i : Nat) (c : Spine) : (s.setSpine i c).islands = s.islands := rfl
@[simp] theorem State.packages_setSpine (s : State) (i : Nat) (c : Spine) : (s.setSpine i c).packages = s.packages := rfl
@[simp] theorem State.ports_setSpine (s : State) (i : Nat) (c : Spine) : (s.setSpine i c).ports = s.ports := rfl
@[simp] theorem State.signals_setSpine (s : State) (i : Nat) (c : Spine) : (s.setSpine i c).signals = s.signals := rfl
@[simp] theorem State.injected_setSpine (s : State) (i : Nat) (c : Spine) : (s.setSpine i c).injected = s.injected := rfl
@[simp] theorem State.errUnits_setSpine (s : State) (i : Nat) (c : Spine) : (s.setSpine i c).errUnits = s.errUnits := rfl
@[simp] theorem State.rewritten_setSpine (s : State) (i : Nat) (c : Spine) : (s.setSpine i c).rewritten = s.rewritten := rfl
@[simp] theorem State.remaps_setSpine (s : State) (i : Nat) (c : Spine) : (s.setSpine i c).remaps = s.remaps := rfl
@[simp] theorem State.lostClocks_setSpine (s : State) (i : Nat) (c : Spine) : (s.setSpine i c).lostClocks = s.lostClocks := rfl
@[simp] theorem State.fenceDue_setSpine (s : State) (i : Nat) (c : Spine) : (s.setSpine i c).fenceDue = s.fenceDue := rfl
@[simp] theorem State.hm_setSpine (s : State) (i : Nat) (c : Spine) : (s.setSpine i c).hm = s.hm := rfl
@[simp] theorem State.boot_setSpine (s : State) (i : Nat) (c : Spine) : (s.setSpine i c).boot = s.boot := rfl
@[simp] theorem State.supply_setSpine (s : State) (i : Nat) (c : Spine) : (s.setSpine i c).supply = s.supply := rfl
@[simp] theorem State.ticks_setSpine (s : State) (i : Nat) (c : Spine) : (s.setSpine i c).ticks = s.ticks := rfl
@[simp] theorem State.free_setSpine (s : State) (i : Nat) (c : Spine) : (s.setSpine i c).free = s.free := rfl
@[simp] theorem State.pending_setSpine (s : State) (i : Nat) (c : Spine) : (s.setSpine i c).pending = s.pending := rfl

theorem State.modPort_eq (s : State) (i : Nat) (f : Port → Port) : s.modPort i f = s.setPort i (f (s.port i)) := rfl
@[simp] theorem State.port_setPort (s : State) (i : Nat) (c : Port) : (s.setPort i c).port i = c := by
  simp [State.port, State.setPort]
theorem State.port_setPort_ne (s : State) (i : Nat) (c : Port) {j : Nat} (h : j ≠ i) : (s.setPort i c).port j = s.port j := by
  simp [State.port, State.setPort, FMap.getD_insert_ne h]
@[simp] theorem State.core_setPort (s : State) (i : Nat) (c : Port) (j : Nat) : (s.setPort i c).core j = s.core j := rfl
@[simp] theorem State.island_setPort (s : State) (i : Nat) (c : Port) (j : Nat) : (s.setPort i c).island j = s.island j := rfl
@[simp] theorem State.pkg_setPort (s : State) (i : Nat) (c : Port) (j : Nat) : (s.setPort i c).pkg j = s.pkg j := rfl
@[simp] theorem State.spine_setPort (s : State) (i : Nat) (c : Port) (j : Nat) : (s.setPort i c).spine j = s.spine j := rfl
@[simp] theorem State.mem_setPort (s : State) (i : Nat) (c : Port) : (s.setPort i c).mem = s.mem := rfl
@[simp] theorem State.hostMem_setPort (s : State) (i : Nat) (c : Port) : (s.setPort i c).hostMem = s.hostMem := rfl
@[simp] theorem State.poisonWords_setPort (s : State) (i : Nat) (c : Port) : (s.setPort i c).poisonWords = s.poisonWords := rfl
@[simp] theorem State.poisonLines_setPort (s : State) (i : Nat) (c : Port) : (s.setPort i c).poisonLines = s.poisonLines := rfl
@[simp] theorem State.cores_setPort (s : State) (i : Nat) (c : Port) : (s.setPort i c).cores = s.cores := rfl
@[simp] theorem State.islands_setPort (s : State) (i : Nat) (c : Port) : (s.setPort i c).islands = s.islands := rfl
@[simp] theorem State.packages_setPort (s : State) (i : Nat) (c : Port) : (s.setPort i c).packages = s.packages := rfl
@[simp] theorem State.spines_setPort (s : State) (i : Nat) (c : Port) : (s.setPort i c).spines = s.spines := rfl
@[simp] theorem State.signals_setPort (s : State) (i : Nat) (c : Port) : (s.setPort i c).signals = s.signals := rfl
@[simp] theorem State.injected_setPort (s : State) (i : Nat) (c : Port) : (s.setPort i c).injected = s.injected := rfl
@[simp] theorem State.errUnits_setPort (s : State) (i : Nat) (c : Port) : (s.setPort i c).errUnits = s.errUnits := rfl
@[simp] theorem State.rewritten_setPort (s : State) (i : Nat) (c : Port) : (s.setPort i c).rewritten = s.rewritten := rfl
@[simp] theorem State.remaps_setPort (s : State) (i : Nat) (c : Port) : (s.setPort i c).remaps = s.remaps := rfl
@[simp] theorem State.lostClocks_setPort (s : State) (i : Nat) (c : Port) : (s.setPort i c).lostClocks = s.lostClocks := rfl
@[simp] theorem State.fenceDue_setPort (s : State) (i : Nat) (c : Port) : (s.setPort i c).fenceDue = s.fenceDue := rfl
@[simp] theorem State.hm_setPort (s : State) (i : Nat) (c : Port) : (s.setPort i c).hm = s.hm := rfl
@[simp] theorem State.boot_setPort (s : State) (i : Nat) (c : Port) : (s.setPort i c).boot = s.boot := rfl
@[simp] theorem State.supply_setPort (s : State) (i : Nat) (c : Port) : (s.setPort i c).supply = s.supply := rfl
@[simp] theorem State.ticks_setPort (s : State) (i : Nat) (c : Port) : (s.setPort i c).ticks = s.ticks := rfl
@[simp] theorem State.free_setPort (s : State) (i : Nat) (c : Port) : (s.setPort i c).free = s.free := rfl
@[simp] theorem State.pending_setPort (s : State) (i : Nat) (c : Port) : (s.setPort i c).pending = s.pending := rfl

@[simp] theorem State.mem_modHm (s : State) (g : Hallmark → Hallmark) : (s.modHm g).mem = s.mem := rfl
@[simp] theorem State.hostMem_modHm (s : State) (g : Hallmark → Hallmark) : (s.modHm g).hostMem = s.hostMem := rfl
@[simp] theorem State.poisonWords_modHm (s : State) (g : Hallmark → Hallmark) : (s.modHm g).poisonWords = s.poisonWords := rfl
@[simp] theorem State.poisonLines_modHm (s : State) (g : Hallmark → Hallmark) : (s.modHm g).poisonLines = s.poisonLines := rfl
@[simp] theorem State.cores_modHm (s : State) (g : Hallmark → Hallmark) : (s.modHm g).cores = s.cores := rfl
@[simp] theorem State.islands_modHm (s : State) (g : Hallmark → Hallmark) : (s.modHm g).islands = s.islands := rfl
@[simp] theorem State.packages_modHm (s : State) (g : Hallmark → Hallmark) : (s.modHm g).packages = s.packages := rfl
@[simp] theorem State.spines_modHm (s : State) (g : Hallmark → Hallmark) : (s.modHm g).spines = s.spines := rfl
@[simp] theorem State.ports_modHm (s : State) (g : Hallmark → Hallmark) : (s.modHm g).ports = s.ports := rfl
@[simp] theorem State.signals_modHm (s : State) (g : Hallmark → Hallmark) : (s.modHm g).signals = s.signals := rfl
@[simp] theorem State.injected_modHm (s : State) (g : Hallmark → Hallmark) : (s.modHm g).injected = s.injected := rfl
@[simp] theorem State.errUnits_modHm (s : State) (g : Hallmark → Hallmark) : (s.modHm g).errUnits = s.errUnits := rfl
@[simp] theorem State.rewritten_modHm (s : State) (g : Hallmark → Hallmark) : (s.modHm g).rewritten = s.rewritten := rfl
@[simp] theorem State.remaps_modHm (s : State) (g : Hallmark → Hallmark) : (s.modHm g).remaps = s.remaps := rfl
@[simp] theorem State.lostClocks_modHm (s : State) (g : Hallmark → Hallmark) : (s.modHm g).lostClocks = s.lostClocks := rfl
@[simp] theorem State.fenceDue_modHm (s : State) (g : Hallmark → Hallmark) : (s.modHm g).fenceDue = s.fenceDue := rfl
@[simp] theorem State.boot_modHm (s : State) (g : Hallmark → Hallmark) : (s.modHm g).boot = s.boot := rfl
@[simp] theorem State.supply_modHm (s : State) (g : Hallmark → Hallmark) : (s.modHm g).supply = s.supply := rfl
@[simp] theorem State.ticks_modHm (s : State) (g : Hallmark → Hallmark) : (s.modHm g).ticks = s.ticks := rfl
@[simp] theorem State.free_modHm (s : State) (g : Hallmark → Hallmark) : (s.modHm g).free = s.free := rfl
@[simp] theorem State.pending_modHm (s : State) (g : Hallmark → Hallmark) : (s.modHm g).pending = s.pending := rfl
@[simp] theorem State.core_modHm (s : State) (g : Hallmark → Hallmark) (j : Nat) : (s.modHm g).core j = s.core j := rfl
@[simp] theorem State.island_modHm (s : State) (g : Hallmark → Hallmark) (j : Nat) : (s.modHm g).island j = s.island j := rfl
@[simp] theorem State.pkg_modHm (s : State) (g : Hallmark → Hallmark) (j : Nat) : (s.modHm g).pkg j = s.pkg j := rfl
@[simp] theorem State.spine_modHm (s : State) (g : Hallmark → Hallmark) (j : Nat) : (s.modHm g).spine j = s.spine j := rfl
@[simp] theorem State.port_modHm (s : State) (g : Hallmark → Hallmark) (j : Nat) : (s.modHm g).port j = s.port j := rfl
@[simp] theorem State.hm_modHm (s : State) (g : Hallmark → Hallmark) : (s.modHm g).hm = g s.hm := rfl

/-! ### Core -/

@[simp] theorem Core.thread_setThread (c : Core) (k : Nat) (v : Thread) : (c.setThread k v).thread k = v := by
  simp [Core.thread, Core.setThread]
theorem Core.thread_setThread_ne (c : Core) (k : Nat) (v : Thread) {j : Nat} (h : j ≠ k) : (c.setThread k v).thread j = c.thread j := by
  simp [Core.thread, Core.setThread, FMap.getD_insert_ne h]
@[simp] theorem Core.code_setThread (c : Core) (k : Nat) (v : Thread) : (c.setThread k v).code = c.code := rfl
@[simp] theorem Core.codeFill_setThread (c : Core) (k : Nat) (v : Thread) : (c.setThread k v).codeFill = c.codeFill := rfl
@[simp] theorem Core.wheel_setThread (c : Core) (k : Nat) (v : Thread) : (c.setThread k v).wheel = c.wheel := rfl
@[simp] theorem Core.segs_setThread (c : Core) (k : Nat) (v : Thread) : (c.setThread k v).segs = c.segs := rfl
@[simp] theorem Core.cursor_setThread (c : Core) (k : Nat) (v : Thread) : (c.setThread k v).cursor = c.cursor := rfl
@[simp] theorem Core.left_setThread (c : Core) (k : Nat) (v : Thread) : (c.setThread k v).left = c.left := rfl
@[simp] theorem Core.waited_setThread (c : Core) (k : Nat) (v : Thread) : (c.setThread k v).waited = c.waited := rfl
@[simp] theorem Core.segNext_setThread (c : Core) (k : Nat) (v : Thread) : (c.setThread k v).segNext = c.segNext := rfl
@[simp] theorem Core.segment_setThread (c : Core) (k : Nat) (v : Thread) : (c.setThread k v).segment = c.segment := rfl
@[simp] theorem Core.stall_setThread (c : Core) (k : Nat) (v : Thread) : (c.setThread k v).stall = c.stall := rfl
@[simp] theorem Core.hold_setThread (c : Core) (k : Nat) (v : Thread) : (c.setThread k v).hold = c.hold := rfl
@[simp] theorem Core.wdogLog2_setThread (c : Core) (k : Nat) (v : Thread) : (c.setThread k v).wdogLog2 = c.wdogLog2 := rfl
@[simp] theorem Core.tasks_setThread (c : Core) (k : Nat) (v : Thread) : (c.setThread k v).tasks = c.tasks := rfl
@[simp] theorem Core.runs_setThread (c : Core) (k : Nat) (v : Thread) : (c.setThread k v).runs = c.runs := rfl
@[simp] theorem Core.taskFlt_setThread (c : Core) (k : Nat) (v : Thread) : (c.setThread k v).taskFlt = c.taskFlt := rfl
@[simp] theorem Core.bars_setThread (c : Core) (k : Nat) (v : Thread) : (c.setThread k v).bars = c.bars := rfl
@[simp] theorem Core.slots_setThread (c : Core) (k : Nat) (v : Thread) : (c.setThread k v).slots = c.slots := rfl
@[simp] theorem Core.binding_setThread (c : Core) (k : Nat) (v : Thread) : (c.setThread k v).binding = c.binding := rfl
@[simp] theorem Core.vregs_setThread (c : Core) (k : Nat) (v : Thread) : (c.setThread k v).vregs = c.vregs := rfl
@[simp] theorem Core.inflight_setThread (c : Core) (k : Nat) (v : Thread) : (c.setThread k v).inflight = c.inflight := rfl
@[simp] theorem Core.nextOp_setThread (c : Core) (k : Nat) (v : Thread) : (c.setThread k v).nextOp = c.nextOp := rfl
@[simp] theorem Core.vArith_setThread (c : Core) (k : Nat) (v : Thread) : (c.setThread k v).vArith = c.vArith := rfl
@[simp] theorem Core.queues_setThread (c : Core) (k : Nat) (v : Thread) : (c.setThread k v).queues = c.queues := rfl
@[simp] theorem Core.tds_setThread (c : Core) (k : Nat) (v : Thread) : (c.setThread k v).tds = c.tds := rfl
@[simp] theorem Core.bank0_setThread (c : Core) (k : Nat) (v : Thread) : (c.setThread k v).bank0 = c.bank0 := rfl
@[simp] theorem Core.bank1_setThread (c : Core) (k : Nat) (v : Thread) : (c.setThread k v).bank1 = c.bank1 := rfl
@[simp] theorem Core.ta_setThread (c : Core) (k : Nat) (v : Thread) : (c.setThread k v).ta = c.ta := rfl
@[simp] theorem Core.tb_setThread (c : Core) (k : Nat) (v : Thread) : (c.setThread k v).tb = c.tb := rfl
@[simp] theorem Core.loadPath_setThread (c : Core) (k : Nat) (v : Thread) : (c.setThread k v).loadPath = c.loadPath := rfl
@[simp] theorem Core.predA_setThread (c : Core) (k : Nat) (v : Thread) : (c.setThread k v).predA = c.predA := rfl
@[simp] theorem Core.predB_setThread (c : Core) (k : Nat) (v : Thread) : (c.setThread k v).predB = c.predB := rfl
@[simp] theorem Core.mxCfg_setThread (c : Core) (k : Nat) (v : Thread) : (c.setThread k v).mxCfg = c.mxCfg := rfl
@[simp] theorem Core.spFlt_setThread (c : Core) (k : Nat) (v : Thread) : (c.setThread k v).spFlt = c.spFlt := rfl
@[simp] theorem Core.spFltWord_setThread (c : Core) (k : Nat) (v : Thread) : (c.setThread k v).spFltWord = c.spFltWord := rfl
@[simp] theorem Core.prdFbStep_setThread (c : Core) (k : Nat) (v : Thread) : (c.setThread k v).prdFbStep = c.prdFbStep := rfl
@[simp] theorem Core.prdFb_setThread (c : Core) (k : Nat) (v : Thread) : (c.setThread k v).prdFb = c.prdFb := rfl
@[simp] theorem Core.prdCnt_setThread (c : Core) (k : Nat) (v : Thread) : (c.setThread k v).prdCnt = c.prdCnt := rfl
@[simp] theorem Core.prdInfo_setThread (c : Core) (k : Nat) (v : Thread) : (c.setThread k v).prdInfo = c.prdInfo := rfl
@[simp] theorem Core.cdrn_setThread (c : Core) (k : Nat) (v : Thread) : (c.setThread k v).cdrn = c.cdrn := rfl
@[simp] theorem Core.priv_setThread (c : Core) (k : Nat) (v : Thread) : (c.setThread k v).priv = c.priv := rfl
@[simp] theorem Core.lscale_setThread (c : Core) (k : Nat) (v : Thread) : (c.setThread k v).lscale = c.lscale := rfl
@[simp] theorem Core.vecOob_setThread (c : Core) (k : Nat) (v : Thread) : (c.setThread k v).vecOob = c.vecOob := rfl
@[simp] theorem Core.vecLane_setThread (c : Core) (k : Nat) (v : Thread) : (c.setThread k v).vecLane = c.vecLane := rfl
@[simp] theorem Core.phaseRing_setThread (c : Core) (k : Nat) (v : Thread) : (c.setThread k v).phaseRing = c.phaseRing := rfl
@[simp] theorem Core.misses_setThread (c : Core) (k : Nat) (v : Thread) : (c.setThread k v).misses = c.misses := rfl
@[simp] theorem Core.head_setThread (c : Core) (k : Nat) (v : Thread) : (c.setThread k v).head = c.head := rfl
@[simp] theorem Core.phases_setThread (c : Core) (k : Nat) (v : Thread) : (c.setThread k v).phases = c.phases := rfl
@[simp] theorem Core.unjudged_setThread (c : Core) (k : Nat) (v : Thread) : (c.setThread k v).unjudged = c.unjudged := rfl
@[simp] theorem Core.bound_setThread (c : Core) (k : Nat) (v : Thread) : (c.setThread k v).bound = c.bound := rfl
@[simp] theorem Core.rel_setThread (c : Core) (k : Nat) (v : Thread) : (c.setThread k v).rel = c.rel := rfl
@[simp] theorem Core.fenced_setThread (c : Core) (k : Nat) (v : Thread) : (c.setThread k v).fenced = c.fenced := rfl
@[simp] theorem Core.ident_setThread (c : Core) (k : Nat) (v : Thread) : (c.setThread k v).ident = c.ident := rfl
@[simp] theorem Core.accOut_setThread (c : Core) (k : Nat) (v : Thread) : (c.setThread k v).accOut = c.accOut := rfl

@[simp] theorem Core.run_setRun (c : Core) (k : Nat) (v : TaskRun) : (c.setRun k v).run k = v := by
  simp [Core.run, Core.setRun]
theorem Core.run_setRun_ne (c : Core) (k : Nat) (v : TaskRun) {j : Nat} (h : j ≠ k) : (c.setRun k v).run j = c.run j := by
  simp [Core.run, Core.setRun, FMap.getD_insert_ne h]
@[simp] theorem Core.threads_setRun (c : Core) (k : Nat) (v : TaskRun) : (c.setRun k v).threads = c.threads := rfl
@[simp] theorem Core.code_setRun (c : Core) (k : Nat) (v : TaskRun) : (c.setRun k v).code = c.code := rfl
@[simp] theorem Core.codeFill_setRun (c : Core) (k : Nat) (v : TaskRun) : (c.setRun k v).codeFill = c.codeFill := rfl
@[simp] theorem Core.wheel_setRun (c : Core) (k : Nat) (v : TaskRun) : (c.setRun k v).wheel = c.wheel := rfl
@[simp] theorem Core.segs_setRun (c : Core) (k : Nat) (v : TaskRun) : (c.setRun k v).segs = c.segs := rfl
@[simp] theorem Core.cursor_setRun (c : Core) (k : Nat) (v : TaskRun) : (c.setRun k v).cursor = c.cursor := rfl
@[simp] theorem Core.left_setRun (c : Core) (k : Nat) (v : TaskRun) : (c.setRun k v).left = c.left := rfl
@[simp] theorem Core.waited_setRun (c : Core) (k : Nat) (v : TaskRun) : (c.setRun k v).waited = c.waited := rfl
@[simp] theorem Core.segNext_setRun (c : Core) (k : Nat) (v : TaskRun) : (c.setRun k v).segNext = c.segNext := rfl
@[simp] theorem Core.segment_setRun (c : Core) (k : Nat) (v : TaskRun) : (c.setRun k v).segment = c.segment := rfl
@[simp] theorem Core.stall_setRun (c : Core) (k : Nat) (v : TaskRun) : (c.setRun k v).stall = c.stall := rfl
@[simp] theorem Core.hold_setRun (c : Core) (k : Nat) (v : TaskRun) : (c.setRun k v).hold = c.hold := rfl
@[simp] theorem Core.wdogLog2_setRun (c : Core) (k : Nat) (v : TaskRun) : (c.setRun k v).wdogLog2 = c.wdogLog2 := rfl
@[simp] theorem Core.tasks_setRun (c : Core) (k : Nat) (v : TaskRun) : (c.setRun k v).tasks = c.tasks := rfl
@[simp] theorem Core.taskFlt_setRun (c : Core) (k : Nat) (v : TaskRun) : (c.setRun k v).taskFlt = c.taskFlt := rfl
@[simp] theorem Core.bars_setRun (c : Core) (k : Nat) (v : TaskRun) : (c.setRun k v).bars = c.bars := rfl
@[simp] theorem Core.slots_setRun (c : Core) (k : Nat) (v : TaskRun) : (c.setRun k v).slots = c.slots := rfl
@[simp] theorem Core.binding_setRun (c : Core) (k : Nat) (v : TaskRun) : (c.setRun k v).binding = c.binding := rfl
@[simp] theorem Core.vregs_setRun (c : Core) (k : Nat) (v : TaskRun) : (c.setRun k v).vregs = c.vregs := rfl
@[simp] theorem Core.inflight_setRun (c : Core) (k : Nat) (v : TaskRun) : (c.setRun k v).inflight = c.inflight := rfl
@[simp] theorem Core.nextOp_setRun (c : Core) (k : Nat) (v : TaskRun) : (c.setRun k v).nextOp = c.nextOp := rfl
@[simp] theorem Core.vArith_setRun (c : Core) (k : Nat) (v : TaskRun) : (c.setRun k v).vArith = c.vArith := rfl
@[simp] theorem Core.queues_setRun (c : Core) (k : Nat) (v : TaskRun) : (c.setRun k v).queues = c.queues := rfl
@[simp] theorem Core.tds_setRun (c : Core) (k : Nat) (v : TaskRun) : (c.setRun k v).tds = c.tds := rfl
@[simp] theorem Core.bank0_setRun (c : Core) (k : Nat) (v : TaskRun) : (c.setRun k v).bank0 = c.bank0 := rfl
@[simp] theorem Core.bank1_setRun (c : Core) (k : Nat) (v : TaskRun) : (c.setRun k v).bank1 = c.bank1 := rfl
@[simp] theorem Core.ta_setRun (c : Core) (k : Nat) (v : TaskRun) : (c.setRun k v).ta = c.ta := rfl
@[simp] theorem Core.tb_setRun (c : Core) (k : Nat) (v : TaskRun) : (c.setRun k v).tb = c.tb := rfl
@[simp] theorem Core.loadPath_setRun (c : Core) (k : Nat) (v : TaskRun) : (c.setRun k v).loadPath = c.loadPath := rfl
@[simp] theorem Core.predA_setRun (c : Core) (k : Nat) (v : TaskRun) : (c.setRun k v).predA = c.predA := rfl
@[simp] theorem Core.predB_setRun (c : Core) (k : Nat) (v : TaskRun) : (c.setRun k v).predB = c.predB := rfl
@[simp] theorem Core.mxCfg_setRun (c : Core) (k : Nat) (v : TaskRun) : (c.setRun k v).mxCfg = c.mxCfg := rfl
@[simp] theorem Core.spFlt_setRun (c : Core) (k : Nat) (v : TaskRun) : (c.setRun k v).spFlt = c.spFlt := rfl
@[simp] theorem Core.spFltWord_setRun (c : Core) (k : Nat) (v : TaskRun) : (c.setRun k v).spFltWord = c.spFltWord := rfl
@[simp] theorem Core.prdFbStep_setRun (c : Core) (k : Nat) (v : TaskRun) : (c.setRun k v).prdFbStep = c.prdFbStep := rfl
@[simp] theorem Core.prdFb_setRun (c : Core) (k : Nat) (v : TaskRun) : (c.setRun k v).prdFb = c.prdFb := rfl
@[simp] theorem Core.prdCnt_setRun (c : Core) (k : Nat) (v : TaskRun) : (c.setRun k v).prdCnt = c.prdCnt := rfl
@[simp] theorem Core.prdInfo_setRun (c : Core) (k : Nat) (v : TaskRun) : (c.setRun k v).prdInfo = c.prdInfo := rfl
@[simp] theorem Core.cdrn_setRun (c : Core) (k : Nat) (v : TaskRun) : (c.setRun k v).cdrn = c.cdrn := rfl
@[simp] theorem Core.priv_setRun (c : Core) (k : Nat) (v : TaskRun) : (c.setRun k v).priv = c.priv := rfl
@[simp] theorem Core.lscale_setRun (c : Core) (k : Nat) (v : TaskRun) : (c.setRun k v).lscale = c.lscale := rfl
@[simp] theorem Core.vecOob_setRun (c : Core) (k : Nat) (v : TaskRun) : (c.setRun k v).vecOob = c.vecOob := rfl
@[simp] theorem Core.vecLane_setRun (c : Core) (k : Nat) (v : TaskRun) : (c.setRun k v).vecLane = c.vecLane := rfl
@[simp] theorem Core.phaseRing_setRun (c : Core) (k : Nat) (v : TaskRun) : (c.setRun k v).phaseRing = c.phaseRing := rfl
@[simp] theorem Core.misses_setRun (c : Core) (k : Nat) (v : TaskRun) : (c.setRun k v).misses = c.misses := rfl
@[simp] theorem Core.head_setRun (c : Core) (k : Nat) (v : TaskRun) : (c.setRun k v).head = c.head := rfl
@[simp] theorem Core.phases_setRun (c : Core) (k : Nat) (v : TaskRun) : (c.setRun k v).phases = c.phases := rfl
@[simp] theorem Core.unjudged_setRun (c : Core) (k : Nat) (v : TaskRun) : (c.setRun k v).unjudged = c.unjudged := rfl
@[simp] theorem Core.bound_setRun (c : Core) (k : Nat) (v : TaskRun) : (c.setRun k v).bound = c.bound := rfl
@[simp] theorem Core.rel_setRun (c : Core) (k : Nat) (v : TaskRun) : (c.setRun k v).rel = c.rel := rfl
@[simp] theorem Core.fenced_setRun (c : Core) (k : Nat) (v : TaskRun) : (c.setRun k v).fenced = c.fenced := rfl
@[simp] theorem Core.ident_setRun (c : Core) (k : Nat) (v : TaskRun) : (c.setRun k v).ident = c.ident := rfl
@[simp] theorem Core.accOut_setRun (c : Core) (k : Nat) (v : TaskRun) : (c.setRun k v).accOut = c.accOut := rfl

@[simp] theorem Core.queue_setQueue (c : Core) (k : Nat) (v : Queue) : (c.setQueue k v).queue k = v := by
  simp [Core.queue, Core.setQueue]
theorem Core.queue_setQueue_ne (c : Core) (k : Nat) (v : Queue) {j : Nat} (h : j ≠ k) : (c.setQueue k v).queue j = c.queue j := by
  simp [Core.queue, Core.setQueue, FMap.getD_insert_ne h]
@[simp] theorem Core.threads_setQueue (c : Core) (k : Nat) (v : Queue) : (c.setQueue k v).threads = c.threads := rfl
@[simp] theorem Core.code_setQueue (c : Core) (k : Nat) (v : Queue) : (c.setQueue k v).code = c.code := rfl
@[simp] theorem Core.codeFill_setQueue (c : Core) (k : Nat) (v : Queue) : (c.setQueue k v).codeFill = c.codeFill := rfl
@[simp] theorem Core.wheel_setQueue (c : Core) (k : Nat) (v : Queue) : (c.setQueue k v).wheel = c.wheel := rfl
@[simp] theorem Core.segs_setQueue (c : Core) (k : Nat) (v : Queue) : (c.setQueue k v).segs = c.segs := rfl
@[simp] theorem Core.cursor_setQueue (c : Core) (k : Nat) (v : Queue) : (c.setQueue k v).cursor = c.cursor := rfl
@[simp] theorem Core.left_setQueue (c : Core) (k : Nat) (v : Queue) : (c.setQueue k v).left = c.left := rfl
@[simp] theorem Core.waited_setQueue (c : Core) (k : Nat) (v : Queue) : (c.setQueue k v).waited = c.waited := rfl
@[simp] theorem Core.segNext_setQueue (c : Core) (k : Nat) (v : Queue) : (c.setQueue k v).segNext = c.segNext := rfl
@[simp] theorem Core.segment_setQueue (c : Core) (k : Nat) (v : Queue) : (c.setQueue k v).segment = c.segment := rfl
@[simp] theorem Core.stall_setQueue (c : Core) (k : Nat) (v : Queue) : (c.setQueue k v).stall = c.stall := rfl
@[simp] theorem Core.hold_setQueue (c : Core) (k : Nat) (v : Queue) : (c.setQueue k v).hold = c.hold := rfl
@[simp] theorem Core.wdogLog2_setQueue (c : Core) (k : Nat) (v : Queue) : (c.setQueue k v).wdogLog2 = c.wdogLog2 := rfl
@[simp] theorem Core.tasks_setQueue (c : Core) (k : Nat) (v : Queue) : (c.setQueue k v).tasks = c.tasks := rfl
@[simp] theorem Core.runs_setQueue (c : Core) (k : Nat) (v : Queue) : (c.setQueue k v).runs = c.runs := rfl
@[simp] theorem Core.taskFlt_setQueue (c : Core) (k : Nat) (v : Queue) : (c.setQueue k v).taskFlt = c.taskFlt := rfl
@[simp] theorem Core.bars_setQueue (c : Core) (k : Nat) (v : Queue) : (c.setQueue k v).bars = c.bars := rfl
@[simp] theorem Core.slots_setQueue (c : Core) (k : Nat) (v : Queue) : (c.setQueue k v).slots = c.slots := rfl
@[simp] theorem Core.binding_setQueue (c : Core) (k : Nat) (v : Queue) : (c.setQueue k v).binding = c.binding := rfl
@[simp] theorem Core.vregs_setQueue (c : Core) (k : Nat) (v : Queue) : (c.setQueue k v).vregs = c.vregs := rfl
@[simp] theorem Core.inflight_setQueue (c : Core) (k : Nat) (v : Queue) : (c.setQueue k v).inflight = c.inflight := rfl
@[simp] theorem Core.nextOp_setQueue (c : Core) (k : Nat) (v : Queue) : (c.setQueue k v).nextOp = c.nextOp := rfl
@[simp] theorem Core.vArith_setQueue (c : Core) (k : Nat) (v : Queue) : (c.setQueue k v).vArith = c.vArith := rfl
@[simp] theorem Core.tds_setQueue (c : Core) (k : Nat) (v : Queue) : (c.setQueue k v).tds = c.tds := rfl
@[simp] theorem Core.bank0_setQueue (c : Core) (k : Nat) (v : Queue) : (c.setQueue k v).bank0 = c.bank0 := rfl
@[simp] theorem Core.bank1_setQueue (c : Core) (k : Nat) (v : Queue) : (c.setQueue k v).bank1 = c.bank1 := rfl
@[simp] theorem Core.ta_setQueue (c : Core) (k : Nat) (v : Queue) : (c.setQueue k v).ta = c.ta := rfl
@[simp] theorem Core.tb_setQueue (c : Core) (k : Nat) (v : Queue) : (c.setQueue k v).tb = c.tb := rfl
@[simp] theorem Core.loadPath_setQueue (c : Core) (k : Nat) (v : Queue) : (c.setQueue k v).loadPath = c.loadPath := rfl
@[simp] theorem Core.predA_setQueue (c : Core) (k : Nat) (v : Queue) : (c.setQueue k v).predA = c.predA := rfl
@[simp] theorem Core.predB_setQueue (c : Core) (k : Nat) (v : Queue) : (c.setQueue k v).predB = c.predB := rfl
@[simp] theorem Core.mxCfg_setQueue (c : Core) (k : Nat) (v : Queue) : (c.setQueue k v).mxCfg = c.mxCfg := rfl
@[simp] theorem Core.spFlt_setQueue (c : Core) (k : Nat) (v : Queue) : (c.setQueue k v).spFlt = c.spFlt := rfl
@[simp] theorem Core.spFltWord_setQueue (c : Core) (k : Nat) (v : Queue) : (c.setQueue k v).spFltWord = c.spFltWord := rfl
@[simp] theorem Core.prdFbStep_setQueue (c : Core) (k : Nat) (v : Queue) : (c.setQueue k v).prdFbStep = c.prdFbStep := rfl
@[simp] theorem Core.prdFb_setQueue (c : Core) (k : Nat) (v : Queue) : (c.setQueue k v).prdFb = c.prdFb := rfl
@[simp] theorem Core.prdCnt_setQueue (c : Core) (k : Nat) (v : Queue) : (c.setQueue k v).prdCnt = c.prdCnt := rfl
@[simp] theorem Core.prdInfo_setQueue (c : Core) (k : Nat) (v : Queue) : (c.setQueue k v).prdInfo = c.prdInfo := rfl
@[simp] theorem Core.cdrn_setQueue (c : Core) (k : Nat) (v : Queue) : (c.setQueue k v).cdrn = c.cdrn := rfl
@[simp] theorem Core.priv_setQueue (c : Core) (k : Nat) (v : Queue) : (c.setQueue k v).priv = c.priv := rfl
@[simp] theorem Core.lscale_setQueue (c : Core) (k : Nat) (v : Queue) : (c.setQueue k v).lscale = c.lscale := rfl
@[simp] theorem Core.vecOob_setQueue (c : Core) (k : Nat) (v : Queue) : (c.setQueue k v).vecOob = c.vecOob := rfl
@[simp] theorem Core.vecLane_setQueue (c : Core) (k : Nat) (v : Queue) : (c.setQueue k v).vecLane = c.vecLane := rfl
@[simp] theorem Core.phaseRing_setQueue (c : Core) (k : Nat) (v : Queue) : (c.setQueue k v).phaseRing = c.phaseRing := rfl
@[simp] theorem Core.misses_setQueue (c : Core) (k : Nat) (v : Queue) : (c.setQueue k v).misses = c.misses := rfl
@[simp] theorem Core.head_setQueue (c : Core) (k : Nat) (v : Queue) : (c.setQueue k v).head = c.head := rfl
@[simp] theorem Core.phases_setQueue (c : Core) (k : Nat) (v : Queue) : (c.setQueue k v).phases = c.phases := rfl
@[simp] theorem Core.unjudged_setQueue (c : Core) (k : Nat) (v : Queue) : (c.setQueue k v).unjudged = c.unjudged := rfl
@[simp] theorem Core.bound_setQueue (c : Core) (k : Nat) (v : Queue) : (c.setQueue k v).bound = c.bound := rfl
@[simp] theorem Core.rel_setQueue (c : Core) (k : Nat) (v : Queue) : (c.setQueue k v).rel = c.rel := rfl
@[simp] theorem Core.fenced_setQueue (c : Core) (k : Nat) (v : Queue) : (c.setQueue k v).fenced = c.fenced := rfl
@[simp] theorem Core.ident_setQueue (c : Core) (k : Nat) (v : Queue) : (c.setQueue k v).ident = c.ident := rfl
@[simp] theorem Core.accOut_setQueue (c : Core) (k : Nat) (v : Queue) : (c.setQueue k v).accOut = c.accOut := rfl

/-! ### Threads -/

@[simp] theorem Thread.reg_zero (t : Thread) : t.reg 0 = 0 := rfl
@[simp] theorem Thread.setReg_zero (t : Thread) (v : Word) : t.setReg 0 v = t := rfl
@[simp] theorem Thread.pred_zero (t : Thread) : t.pred 0 = true := rfl
@[simp] theorem Thread.setPred_zero (t : Thread) (v : Bool) : t.setPred 0 v = t := rfl
theorem Thread.reg_setReg (t : Thread) {r : Nat} (h : r ≠ 0) (v : Word) : (t.setReg r v).reg r = v := by
  simp [Thread.reg, Thread.setReg, h]
theorem Thread.reg_setReg_ne (t : Thread) {r q : Nat} (h : q ≠ r) (v : Word) : (t.setReg r v).reg q = t.reg q := by
  unfold Thread.reg Thread.setReg
  split
  · rfl
  · split
    · rfl
    · exact FMap.getD_insert_ne h v t.regs 0
@[simp] theorem Thread.st_setReg (t : Thread) (r : Nat) (v : Word) : (t.setReg r v).st = t.st := by
  unfold Thread.setReg; split <;> rfl
@[simp] theorem Thread.st_setPred (t : Thread) (p : Nat) (v : Bool) : (t.setPred p v).st = t.st := by
  unfold Thread.setPred; split <;> rfl
@[simp] theorem Thread.st_setSb (t : Thread) (k : Nat) (v : Bool) : (t.setSb k v).st = t.st := rfl
@[simp] theorem Thread.st_setFlags (t : Thread) (x : BitVec 5) : (Thread.setFlags t x).st = t.st := rfl
@[simp] theorem Thread.pc_setReg (t : Thread) (r : Nat) (v : Word) : (t.setReg r v).pc = t.pc := by
  unfold Thread.setReg; split <;> rfl
@[simp] theorem Thread.pc_setPred (t : Thread) (p : Nat) (v : Bool) : (t.setPred p v).pc = t.pc := by
  unfold Thread.setPred; split <;> rfl
@[simp] theorem Thread.pc_setSb (t : Thread) (k : Nat) (v : Bool) : (t.setSb k v).pc = t.pc := rfl
@[simp] theorem Thread.pc_setFlags (t : Thread) (x : BitVec 5) : (Thread.setFlags t x).pc = t.pc := rfl
@[simp] theorem Thread.regs_setPred (t : Thread) (p : Nat) (v : Bool) : (t.setPred p v).regs = t.regs := by
  unfold Thread.setPred; split <;> rfl
@[simp] theorem Thread.regs_setSb (t : Thread) (k : Nat) (v : Bool) : (t.setSb k v).regs = t.regs := rfl
@[simp] theorem Thread.regs_setFlags (t : Thread) (x : BitVec 5) : (Thread.setFlags t x).regs = t.regs := rfl
@[simp] theorem Thread.preds_setReg (t : Thread) (r : Nat) (v : Word) : (t.setReg r v).preds = t.preds := by
  unfold Thread.setReg; split <;> rfl
@[simp] theorem Thread.preds_setSb (t : Thread) (k : Nat) (v : Bool) : (t.setSb k v).preds = t.preds := rfl
@[simp] theorem Thread.preds_setFlags (t : Thread) (x : BitVec 5) : (Thread.setFlags t x).preds = t.preds := rfl
@[simp] theorem Thread.sbs_setReg (t : Thread) (r : Nat) (v : Word) : (t.setReg r v).sbs = t.sbs := by
  unfold Thread.setReg; split <;> rfl
@[simp] theorem Thread.sbs_setPred (t : Thread) (p : Nat) (v : Bool) : (t.setPred p v).sbs = t.sbs := by
  unfold Thread.setPred; split <;> rfl
@[simp] theorem Thread.sbs_setFlags (t : Thread) (x : BitVec 5) : (Thread.setFlags t x).sbs = t.sbs := rfl
@[simp] theorem Thread.flags_setReg (t : Thread) (r : Nat) (v : Word) : (t.setReg r v).flags = t.flags := by
  unfold Thread.setReg; split <;> rfl
@[simp] theorem Thread.flags_setPred (t : Thread) (p : Nat) (v : Bool) : (t.setPred p v).flags = t.flags := by
  unfold Thread.setPred; split <;> rfl
@[simp] theorem Thread.flags_setSb (t : Thread) (k : Nat) (v : Bool) : (t.setSb k v).flags = t.flags := rfl
@[simp] theorem Thread.waiting_setReg (t : Thread) (r : Nat) (v : Word) : (t.setReg r v).waiting = t.waiting := by
  unfold Thread.setReg; split <;> rfl
@[simp] theorem Thread.waiting_setPred (t : Thread) (p : Nat) (v : Bool) : (t.setPred p v).waiting = t.waiting := by
  unfold Thread.setPred; split <;> rfl
@[simp] theorem Thread.waiting_setSb (t : Thread) (k : Nat) (v : Bool) : (t.setSb k v).waiting = t.waiting := rfl
@[simp] theorem Thread.waiting_setFlags (t : Thread) (x : BitVec 5) : (Thread.setFlags t x).waiting = t.waiting := rfl

end Sys2Proof.Machine
end

