-- ==== Sys2Proof/Laws/Issue.lean ====
section
/-! SUPPORT. What an offer of the issue wheel answers: an instruction that executes is its body followed by what the wheel
does with the body's answer, and an issued instruction changes nothing beside its body but its thread's pc, the wheel's
position and the phase accounting. -/

namespace Sys2Proof.Machine

open Host (Outcome)

/-! ### Fences -/

/-- With no fence due, the end of a command changes nothing. -/
theorem State.settleFences_of_nil {s : State} (h : s.fenceDue = []) : s.settleFences = s := by
  simp [State.settleFences, fenceRounds, h]

/-- A command on an existing unit of a module that is on, whose effect leaves no fence due. -/
theorem State.onUnit_next {s : State} {ok : Bool} {f : State → State} (hok : ok = true) (hon : s.supply.on = true)
    (hf : (f s).fenceDue = []) : s.onUnit ok f = .next (f s) := by
  simp [State.onUnit, hok, hon, State.settleFences_of_nil hf]

/-! ### An offer that executes -/

/-- The parts of an offer, one by one. -/
theorem Offered.parts {x : Instr} {i : Issue} {s : State} {k : Offer} (h : Offered x i s k) :
    k = { site := i.site, ctx := (s.core i.site).wheelCtx, allot := k.allot, task := k.task
          t := (s.core i.site).thread (s.core i.site).wheelCtx } := by
  obtain ⟨⟨-, -, -, h1, h2, h3, -⟩, -⟩ := h
  cases k
  simp_all

/-- An instruction that executes: the wheel settles what its body answers, and the fences that are due are made. -/
theorem issue_of_executes {x : Instr} {i : Issue} {regs : List Nat} {s : State} {k : Offer}
    (h : Executes x i regs s k) (body : Offer → State → Res) :
    issue x i regs body s = .next (s.settle i.site k.ctx k.t.pc (body k s)).settleFences := by
  obtain ⟨ho, hp, hsb, hr⟩ := h
  have hk := ho.parts
  obtain ⟨⟨⟨hon, hfd⟩, hsite, hrun, h1, h2, h3, hact, hal, htask, henc, hres⟩, hw, hwm⟩ := ho
  have hr' : (regs.any fun r => r ≠ 0 && ((s.core k.site).pendingRegs k.ctx).contains r) = false := by
    rw [List.any_eq_false]
    intro r hrm
    rcases hr r hrm with h | h
    · simp [h]
    · rw [h1]
      simp [h]
  have hsb' : (namesSb x && k.t.sbPending i.sb.toNat) = false := by
    cases hn : namesSb x
    · rfl
    · simp [hsb hn]
  have hex : execute x i regs k body s = body k s := by
    unfold execute
    rw [hsb', hr']
    rfl
  unfold issue State.onSite State.onUnit issueAt
  rw [if_pos (by simpa using hsite), if_pos hon]
  simp only []
  rw [← h2, ← h3, hrun, hact]
  simp only [Bool.not_true, Bool.false_or, ne_eq, not_true_eq_false, decide_false, Bool.false_eq_true,
    if_false, hal, htask, hres, henc, hw, hwm, Option.isSome_none]
  have hkk : ({ site := i.site, ctx := k.ctx, allot := k.allot, task := k.task, t := k.t } : Offer) = k := by
    rw [← h1]
  rw [if_neg hp, hkk, hex]

/-! ### The wheel after an issued instruction -/

theorem Core.thread_noteIssued (c : Core) (ctx j : Nat) : (c.noteIssued ctx).thread j = c.thread j := by
  unfold Core.noteIssued
  split <;> rfl

theorem Core.thread_advance (c : Core) (j : Nat) : c.advance.thread j = c.thread j := rfl

/-- What retiring an instruction does to its core: pc moves on. -/
theorem Core.thread_retire (c : Core) (ctx : Nat) (pc : BitVec 14) (b : Bool) :
    (c.retire ctx pc b).thread ctx = { c.thread ctx with pc := pc } := by
  unfold Core.retire
  simp only []
  split
  · rw [Core.thread_advance]
    simp
  · exact Core.thread_setThread _ _ _

theorem Core.thread_retire_ne (c : Core) (ctx : Nat) (pc : BitVec 14) (b : Bool) {j : Nat} (h : j ≠ ctx) :
    (c.retire ctx pc b).thread j = c.thread j := by
  unfold Core.retire
  simp only []
  split
  · rw [Core.thread_advance, Core.thread_setThread_ne _ _ _ h, Core.thread_noteIssued]
  · exact (Core.thread_setThread_ne _ _ _ h).trans (Core.thread_noteIssued _ _ _)

theorem Core.same_noteIssued (c : Core) (ctx : Nat) : Core.SameButThreads c (c.noteIssued ctx) := by
  unfold Core.noteIssued Core.SameButThreads
  split <;> rfl

theorem Core.SameButThreads.refl (c : Core) : Core.SameButThreads c c := rfl

theorem Core.SameButThreads.trans {a b c : Core} (h1 : Core.SameButThreads a b) (h2 : Core.SameButThreads b c) :
    Core.SameButThreads a c := by
  unfold Core.SameButThreads at *
  rw [h2, h1]

theorem Core.same_setThread (c : Core) (ctx : Nat) (t : Thread) : Core.SameButThreads c (c.setThread ctx t) := rfl

theorem Core.same_advance (c : Core) : Core.SameButThreads c c.advance := rfl

theorem Core.same_retire (c : Core) (ctx : Nat) (pc : BitVec 14) (b : Bool) :
    Core.SameButThreads c (c.retire ctx pc b) := by
  unfold Core.retire
  simp only []
  have h := (Core.same_noteIssued c ctx).trans
    (Core.same_setThread (c.noteIssued ctx) ctx { c.thread ctx with pc := pc })
  refine h.trans ?_
  split
  · exact Core.same_advance _
  · rfl

theorem State.onlyCore_setCore (s : State) (site : Nat) (c : Core) : State.OnlyCore site s (s.setCore site c) :=
  ⟨rfl, fun _ h => State.core_setCore_ne s site c h⟩

theorem State.OnlyCore.trans {site : Nat} {a b c : State} (h1 : State.OnlyCore site a b)
    (h2 : State.OnlyCore site b c) : State.OnlyCore site a c := by
  refine ⟨?_, fun j hj => (h2.2 j hj).trans (h1.2 j hj)⟩
  rw [h2.1, h1.1]

theorem State.OnlyCore.fenceDue {site : Nat} {s t : State} (h : State.OnlyCore site s t) : t.fenceDue = s.fenceDue := by
  rw [h.1]

/-- An instruction that executes, whose body changes only its core: f says what becomes of the core beside its threads,
th what becomes of its thread beside pc. -/
theorem issue_next {x : Instr} {i : Issue} {regs : List Nat} {s s' : State} {k : Offer} {body : Offer → State → Res}
    {th : Thread} {f : Core → Core} (h : Executes x i regs s k) (hb : body k s = .next s')
    (ho : State.OnlyCore k.site s s') (hc : Core.SameButThreads (f (s.core k.site)) (s'.core k.site))
    (hj : ∀ j, j ≠ k.ctx → (s'.core k.site).thread j = (s.core k.site).thread j)
    (ht : (s'.core k.site).thread k.ctx = th) :
    ∃ t, issue x i regs body s = .next t ∧ IssuedWith s t k { th with pc := k.t.pc + 1 } f := by
  have hup : s.fenceDue = [] := h.1.1.1.2
  have h1 : k.site = i.site := h.1.1.2.2.2.1
  have hset : s.settle i.site k.ctx k.t.pc (body k s) =
      s'.setCore k.site ((s'.core k.site).retire k.ctx (k.t.pc + 1) false) := by
    rw [hb, ← h1]
    rfl
  have honly : State.OnlyCore k.site s (s'.setCore k.site ((s'.core k.site).retire k.ctx (k.t.pc + 1) false)) :=
    ho.trans (State.onlyCore_setCore _ _ _)
  refine ⟨_, issue_of_executes h body, ?_⟩
  rw [hset, State.settleFences_of_nil (honly.fenceDue.trans hup)]
  refine ⟨honly, ?_, ?_, ?_⟩
  · rw [State.core_setCore]
    exact hc.trans (Core.same_retire _ _ _ _)
  · intro j hne
    rw [State.core_setCore, Core.thread_retire_ne _ _ _ _ hne]
    exact hj j hne
  · rw [State.core_setCore, Core.thread_retire, ht]

/-- The same for an instruction that jumps. -/
theorem issue_jump {x : Instr} {i : Issue} {regs : List Nat} {s s' : State} {k : Offer} {body : Offer → State → Res}
    {th : Thread} {f : Core → Core} {pc : BitVec 14} (h : Executes x i regs s k) (hb : body k s = .jump pc s')
    (ho : State.OnlyCore k.site s s') (hc : Core.SameButThreads (f (s.core k.site)) (s'.core k.site))
    (hj : ∀ j, j ≠ k.ctx → (s'.core k.site).thread j = (s.core k.site).thread j)
    (ht : (s'.core k.site).thread k.ctx = th) :
    ∃ t, issue x i regs body s = .next t ∧ IssuedWith s t k { th with pc := pc } f := by
  have hup : s.fenceDue = [] := h.1.1.1.2
  have h1 : k.site = i.site := h.1.1.2.2.2.1
  have hset : s.settle i.site k.ctx k.t.pc (body k s) =
      s'.setCore k.site ((s'.core k.site).retire k.ctx pc false) := by
    rw [hb, ← h1]
    rfl
  have honly : State.OnlyCore k.site s (s'.setCore k.site ((s'.core k.site).retire k.ctx pc false)) :=
    ho.trans (State.onlyCore_setCore _ _ _)
  refine ⟨_, issue_of_executes h body, ?_⟩
  rw [hset, State.settleFences_of_nil (honly.fenceDue.trans hup)]
  refine ⟨honly, ?_, ?_, ?_⟩
  · rw [State.core_setCore]
    exact hc.trans (Core.same_retire _ _ _ _)
  · intro j hne
    rw [State.core_setCore, Core.thread_retire_ne _ _ _ _ hne]
    exact hj j hne
  · rw [State.core_setCore, Core.thread_retire, ht]

/-- A body that changes its thread only. -/
theorem issue_modThread {x : Instr} {i : Issue} {regs : List Nat} {s : State} {k : Offer} {body : Offer → State → Res}
    {g : Thread → Thread} (h : Executes x i regs s k) (hb : body k s = .next (s.modThread k g)) :
    ∃ t, issue x i regs body s = .next t ∧ Issued s t k { g k.t with pc := k.t.pc + 1 } := by
  have h3 : k.t = (s.core k.site).thread k.ctx := by
    have := h.1.1
    rw [this.2.2.2.1]
    exact this.2.2.2.2.2.1
  refine issue_next (f := id) h hb (State.onlyCore_setCore _ _ _) ?_ ?_ ?_
  · simp only [State.modThread, State.modCore_eq, State.core_setCore]
    exact Core.same_setThread _ _ _
  · intro j hj
    simp only [State.modThread, State.modCore_eq, State.core_setCore]
    exact Core.thread_setThread_ne _ _ _ hj
  · simp only [State.modThread, State.modCore_eq, State.core_setCore, Core.thread_setThread]
    rw [← h3]

end Sys2Proof.Machine
end

