-- ==== Sys2Proof/Laws/Memory.lean ====
section
/-! SUPPORT. What the memory operations do: each keeps the canonical form, a read after a write gives the bytes written,
and every other byte is as before. -/

namespace Sys2Proof.Machine

open Host (Cell)

/-! ### The canonical form -/

/-- The canonical form, said of the whole list: no entry equal to an unlisted byte, addresses strictly rising. -/
theorem Memory.wf_iff (m : List Cell) :
    Memory.wf m = true ↔ (∀ c ∈ m, c.2 ≠ unlisted) ∧ m.Pairwise (fun c d => c.1 < d.1) := by
  induction m with
  | nil => simp [Memory.wf]
  | cons c t ih =>
    cases t with
    | nil => simp [Memory.wf]
    | cons d u =>
      simp only [Memory.wf, Bool.and_eq_true, decide_eq_true_eq, ih]
      constructor
      · rintro ⟨⟨h1, h2⟩, h3, h4⟩
        refine ⟨by simpa [h1] using h3, List.pairwise_cons.2 ⟨?_, h4⟩⟩
        intro e he
        rcases List.mem_cons.1 he with rfl | he
        · exact h2
        · exact Nat.lt_trans h2 ((List.pairwise_cons.1 h4).1 e he)
      · rintro ⟨h1, h2⟩
        obtain ⟨h3, h4⟩ := List.pairwise_cons.1 h2
        exact ⟨⟨h1 c (by simp), h3 d (by simp)⟩, fun e he => h1 e (List.mem_cons_of_mem _ he), h4⟩

/-- Any part of a canonical list is canonical. -/
theorem Memory.wf_filter {m : List Cell} (h : Memory.wf m = true) (f : Cell → Bool) : Memory.wf (m.filter f) = true := by
  rw [Memory.wf_iff] at h ⊢
  exact ⟨fun c hc => h.1 c (List.mem_filter.1 hc).1, h.2.filter _⟩

theorem Memory.mem_insert {a : Nat} {b : Byte} {m : List Cell} {c : Cell} (h : c ∈ FMap.insert a b m) :
    c = (a, b) ∨ c ∈ m := by
  induction m with
  | nil => simpa [FMap.insert] using h
  | cons x t ih =>
    obtain ⟨k, v⟩ := x
    unfold FMap.insert at h
    split at h
    · simpa using h
    · split at h
      · rcases List.mem_cons.1 h with h | h
        · exact .inl h
        · exact .inr (List.mem_cons_of_mem _ h)
      · rcases List.mem_cons.1 h with h | h
        · exact .inr (by simp [h])
        · rcases ih h with h | h
          · exact .inl h
          · exact .inr (List.mem_cons_of_mem _ h)

theorem Memory.pairwise_insert (a : Nat) (b : Byte) {m : List Cell} (h : m.Pairwise fun c d => c.1 < d.1) :
    (FMap.insert a b m).Pairwise fun c d => c.1 < d.1 := by
  induction m with
  | nil => simp [FMap.insert]
  | cons x t ih =>
    obtain ⟨k, v⟩ := x
    obtain ⟨h1, h2⟩ := List.pairwise_cons.1 h
    unfold FMap.insert
    split
    · rename_i hk
      refine List.pairwise_cons.2 ⟨fun c hc => ?_, h⟩
      rcases List.mem_cons.1 hc with rfl | hc
      · exact hk
      · exact Nat.lt_trans hk (h1 c hc)
    · split
      · rename_i hk
        subst hk
        exact List.pairwise_cons.2 ⟨h1, h2⟩
      · rename_i hk1 hk2
        refine List.pairwise_cons.2 ⟨fun c hc => ?_, ih h2⟩
        rcases Memory.mem_insert hc with rfl | hc
        · exact Nat.lt_of_le_of_ne (Nat.le_of_not_lt hk1) (Ne.symm hk2)
        · exact h1 c hc

/-- Writing one byte keeps the canonical form. -/
theorem Memory.wf_writeByte {m : List Cell} (h : Memory.wf m = true) (a : Nat) (b : Byte) :
    Memory.wf (Memory.writeByte m a b) = true := by
  unfold Memory.writeByte
  split
  · exact Memory.wf_filter h _
  · rename_i hb
    rw [Memory.wf_iff] at h ⊢
    refine ⟨fun c hc => ?_, Memory.pairwise_insert a b h.2⟩
    rcases Memory.mem_insert hc with rfl | hc
    · exact hb
    · exact h.1 c hc

/-- Writing bytes keeps the canonical form. -/
theorem Memory.wf_write {m : List Cell} (h : Memory.wf m = true) (a : Nat) (l : List Byte) :
    Memory.wf (Memory.write m a l) = true := by
  induction l generalizing m a with
  | nil => exact h
  | cons b t ih => exact ih (Memory.wf_writeByte h a b) (a + 1)

/-- Zeroing a range keeps the canonical form. -/
theorem Memory.wf_outside {m : List Cell} (h : Memory.wf m = true) (a n : Nat) : Memory.wf (Memory.outside m a n) = true :=
  Memory.wf_filter h _

/-! ### Bytes -/

/-- A byte written reads as written, and every other byte as before. -/
theorem readByte_writeByte (m : List Cell) (a : Nat) (b : Byte) (x : Nat) :
    readByte (Memory.writeByte m a b) x = if x = a then b else readByte m x := by
  unfold readByte Memory.writeByte
  split
  · rename_i hb
    split
    · rename_i hx
      rw [hx, FMap.getD_erase_self, hb]
    · rename_i hx
      exact FMap.getD_erase_ne hx m unlisted
  · split
    · rename_i hx
      rw [hx, FMap.getD_insert_self]
    · rename_i hx
      exact FMap.getD_insert_ne hx b m unlisted

/-- Bytes outside a write are as before. -/
theorem readByte_write_outside (m : List Cell) (a : Nat) (l : List Byte) {x : Nat} (h : ¬ (a ≤ x ∧ x < a + l.length)) :
    readByte (Memory.write m a l) x = readByte m x := by
  induction l generalizing m a with
  | nil => rfl
  | cons b t ih =>
    simp only [List.length_cons] at h
    have h1 : ¬ (a + 1 ≤ x ∧ x < a + 1 + t.length) := by omega
    have h2 : x ≠ a := by omega
    unfold Memory.write
    rw [ih _ _ h1, readByte_writeByte, if_neg h2]

/-- Byte j of a write reads as written. -/
theorem readByte_write (m : List Cell) (a : Nat) (l : List Byte) {j : Nat} {b : Byte} (h : l[j]? = some b) :
    readByte (Memory.write m a l) (a + j) = b := by
  induction l generalizing m a j with
  | nil => simp at h
  | cons c t ih =>
    cases j with
    | zero =>
      have h1 : ¬ (a + 1 ≤ a ∧ a < a + 1 + t.length) := by omega
      rw [Nat.add_zero, Memory.write, readByte_write_outside _ _ _ h1, readByte_writeByte, if_pos rfl]
      simpa using h
    | succ j =>
      unfold Memory.write
      have := ih (Memory.writeByte m a c) (a + 1) (j := j) (by simpa using h)
      rw [← this]
      congr 1
      omega

/-- A filter that keeps every entry of address a keeps the byte at a. -/
theorem readByte_filter (m : List Cell) (f : Cell → Bool) {a : Nat} (h : ∀ b, f (a, b) = true) :
    readByte (m.filter f) a = readByte m a := by
  unfold readByte FMap.getD
  congr 1
  induction m with
  | nil => rfl
  | cons c t ih =>
    obtain ⟨k, v⟩ := c
    by_cases hk : k = a
    · subst hk
      rw [List.filter_cons_of_pos (h v)]
      simp [FMap.find]
    · by_cases hf : f (k, v) = true
      · rw [List.filter_cons_of_pos hf]
        simp only [FMap.find, hk, if_false]
        exact ih
      · rw [List.filter_cons_of_neg hf]
        simp only [FMap.find, hk, if_false]
        exact ih

theorem Memory.walk_eq (n : Nat) : ∀ (m : List Cell) (a : Nat),
    Memory.walk m a n = (List.range n).map fun i => readByte m (a + i) := by
  induction n with
  | zero => intro m a; cases m <;> rfl
  | succ n ih =>
    intro m a
    rw [List.range_succ_eq_map, List.map_cons, List.map_map]
    cases m with
    | nil =>
      rw [Memory.walk, ih]
      congr 1
    | cons c t =>
      rw [Memory.walk, ih]
      congr 1
      refine List.map_congr_left fun i _ => ?_
      simp only [Function.comp]
      obtain ⟨k, v⟩ := c
      split
      · rename_i h
        have e : k ≠ a + (i + 1) := by simp only at h; omega
        simp only [readByte, FMap.getD, FMap.find, Nat.succ_eq_add_one, e, if_false]
        congr 2
        omega
      · congr 1
        omega

/-- A read gives the bytes of its addresses in turn. -/
theorem Memory.read_eq (m : List Cell) (a n : Nat) :
    Memory.read m a n = (List.range n).map fun i => readByte m (a + i) := by
  unfold Memory.read
  rw [Memory.walk_eq]
  refine List.map_congr_left fun i hi => ?_
  have := List.mem_range.1 hi
  exact readByte_filter m _ fun b => by simp; omega

/-- A read of what was just written gives it back. -/
theorem Memory.read_write (m : List Cell) (a : Nat) (l : List Byte) : Memory.read (Memory.write m a l) a l.length = l := by
  rw [Memory.read_eq]
  apply List.ext_getElem
  · simp
  · intro j h1 h2
    simp only [List.getElem_map, List.getElem_range]
    exact readByte_write m a l (by rw [List.getElem?_eq_getElem h2])

/-! ### What else a write does: undo copies, reports, poison -/

/-- Device memory is as before, and host memory keeps its canonical form. -/
def State.KeepsMem (s t : State) : Prop := t.mem = s.mem ∧ (Memory.wf s.hostMem = true → Memory.wf t.hostMem = true)

theorem State.KeepsMem.refl (s : State) : State.KeepsMem s s := ⟨rfl, id⟩

/-- Neither memory differs. -/
theorem State.KeepsMem.of_eq {s t : State} (h : t.mem = s.mem) (k : t.hostMem = s.hostMem) : State.KeepsMem s t :=
  ⟨h, fun w => by rw [k]; exact w⟩

theorem State.KeepsMem.trans {s t u : State} (h : State.KeepsMem s t) (k : State.KeepsMem t u) : State.KeepsMem s u :=
  ⟨k.1.trans h.1, k.2 ∘ h.2⟩

theorem State.KeepsMem.canonical {s t : State} (h : State.KeepsMem s t) (c : s.Canonical) : t.Canonical := by
  refine ⟨?_, h.2 c.2⟩
  rw [h.1]
  exact c.1

theorem State.KeepsMem.fold {β : Type} (l : List β) (f : State → β → State) (h : ∀ s x, State.KeepsMem s (f s x))
    (s : State) : State.KeepsMem s (l.foldl f s) := by
  induction l generalizing s with
  | nil => exact .refl s
  | cons x t ih => exact (h s x).trans (ih (f s x))

/-- A write through a port's window keeps device memory and the canonical form of host memory. -/
theorem State.keepsMem_hostWrite {s t : State} {p a : Nat} {l : List Byte} (h : s.hostWrite p a l = some t) :
    State.KeepsMem s t := by
  have key (ps : List (Nat × Nat)) (acc : Option State) (h : ps.foldl (fun acc pc =>
        match acc with
        | none => none
        | some s' =>
          match translate (s.port p) p pc.1 true with
          | none => none
          | some k => some { s' with hostMem := Memory.write s'.hostMem k ((l.drop (pc.1 - a)).take pc.2) }) acc = some t) :
      ∃ u, acc = some u ∧ State.KeepsMem u t := by
    induction ps generalizing acc with
    | nil => exact ⟨t, h, .refl t⟩
    | cons x ps ih =>
      obtain ⟨u, hu, hk⟩ := ih _ h
      cases acc with
      | none => simp at hu
      | some v =>
        simp only [] at hu
        cases hx : translate (s.port p) p x.1 true with
        | none => simp [hx] at hu
        | some k =>
          rw [hx] at hu
          simp only [Option.some.injEq] at hu
          subst hu
          exact ⟨v, rfl, hk.1, fun w => hk.2 (Memory.wf_write w _ _)⟩
  unfold State.hostWrite at h
  split at h
  · cases h
  split at h
  · split at h
    · obtain ⟨u, hu, hk⟩ := key _ _ h
      cases hu
      exact hk
    · cases h
  · cases h

theorem State.keepsMem_pushCompletion (s : State) (p k : Nat) (c : Completion) :
    State.KeepsMem s (s.pushCompletion p k c).1 := by
  unfold State.pushCompletion
  simp only []
  split
  · exact .refl s
  · split
    · exact ⟨rfl, id⟩
    · rename_i s' hw
      have := State.keepsMem_hostWrite hw
      simp only []
      split
      · exact this.trans ⟨rfl, id⟩
      · exact this.trans ⟨rfl, id⟩

theorem keepsMem_deliverEvents (p : Nat) (l : List Event) (s : State) : State.KeepsMem s (deliverEvents p l s) := by
  induction l generalizing s with
  | nil => exact ⟨rfl, id⟩
  | cons e t ih =>
    have := State.keepsMem_pushCompletion s p 0 e.completion
    unfold deliverEvents
    split
    · exact ⟨rfl, id⟩
    · rename_i s' r hs hne
      rw [hne] at this
      exact this.trans (ih s')

/-- An event changes no device memory, whether or not it reaches the host's queue. -/
theorem State.keepsMem_postEvent (s : State) (p kind : Nat) (l : List Byte) : State.KeepsMem s (s.postEvent p kind l) :=
  keepsMem_deliverEvents _ _ _

/-- An error report changes no device memory. -/
theorem State.keepsMem_report (s : State) (e : ErrReport) : State.KeepsMem s (s.report e) := by
  unfold State.report
  simp only []
  split
  · exact State.KeepsMem.trans ⟨rfl, id⟩ (State.KeepsMem.fold _ _ (fun s x => State.keepsMem_postEvent s x _ _) _)
  · split
    · exact State.KeepsMem.trans ⟨rfl, id⟩ (State.keepsMem_postEvent _ _ _ _)
    · exact ⟨rfl, id⟩

theorem State.keepsMem_reportFrom (s : State) (cls island site : Nat) (allot : Option Nat) (detail : Nat) :
    State.KeepsMem s (s.reportFrom cls island site allot detail) := State.keepsMem_report _ _

/-- The report of an uncorrectable error, or of poison met, changes no device memory. -/
theorem State.keepsMem_reportUe (s : State) (a : Nat) : State.KeepsMem s (s.reportUe a) := by
  unfold State.reportUe; split <;> exact State.keepsMem_reportFrom _ _ _ _ _ _

theorem State.keepsMem_poison (s : State) (a : Nat) : State.KeepsMem s (s.poison a) := by
  unfold State.poison; split <;> exact ⟨rfl, id⟩

theorem State.keepsMem_unpoison (s : State) (a n : Nat) : State.KeepsMem s (s.unpoison a n) := by
  unfold State.unpoison; split <;> exact ⟨rfl, id⟩

theorem State.keepsMem_useSpare (s : State) (k : Nat) : State.KeepsMem s (s.useSpare k) := by
  unfold State.useSpare; simp only []; split <;> exact ⟨rfl, id⟩

theorem State.keepsMem_noteRewrite (s : State) (a n : Nat) : State.KeepsMem s (s.noteRewrite a n) :=
  State.KeepsMem.trans ⟨rfl, id⟩ (State.KeepsMem.fold _ _ State.keepsMem_useSpare _)

theorem State.keepsMem_modIsland (s : State) (i : Nat) (f : Island → Island) : State.KeepsMem s (s.modIsland i f) :=
  ⟨rfl, id⟩

theorem State.keepsMem_modPkg (s : State) (n : Nat) (f : Package → Package) : State.KeepsMem s (s.modPkg n f) := ⟨rfl, id⟩

theorem State.keepsMem_inject (s : State) (a n : Nat) : State.KeepsMem s (s.inject a n) := by
  unfold State.inject
  simp only []
  split <;> split
  · refine State.KeepsMem.trans ?_ (State.keepsMem_modIsland _ _ _)
    split
    · exact State.keepsMem_poison s _
    · split <;> exact ⟨rfl, id⟩
  · exact .refl s
  · refine State.KeepsMem.trans ?_ (State.keepsMem_modPkg _ _ _)
    split
    · exact State.keepsMem_poison s _
    · split <;> exact ⟨rfl, id⟩
  · exact .refl s

/-! ### Errors that a unit's code meets -/

theorem State.keepsMem_noteUnit (s : State) (a : Nat) (again : Bool) (cls : Nat) :
    State.KeepsMem s (s.noteUnit a again cls) := by
  have h : State.KeepsMem s (if s.errUnits.contains (a / unitSize a * unitSize a) then s
      else { s with errUnits := s.errUnits ++ [a / unitSize a * unitSize a] }) := by split <;> exact ⟨rfl, id⟩
  unfold State.noteUnit
  simp only []
  generalize (if s.errUnits.contains (a / unitSize a * unitSize a) then s
      else { s with errUnits := s.errUnits ++ [a / unitSize a * unitSize a] }) = s1 at h ⊢
  split
  · exact h
  · split
    all_goals split
    all_goals exact h.trans ⟨rfl, id⟩

theorem State.keepsMem_noteCe (s : State) (a : Nat) (tr : Bool) : State.KeepsMem s (s.noteCe a tr) := by
  unfold State.noteCe
  simp only []
  split
  · exact ((State.keepsMem_noteUnit _ _ _ _).trans (State.keepsMem_modIsland _ _ _)).trans (State.keepsMem_reportFrom ..)
  · exact ((State.keepsMem_noteUnit _ _ _ _).trans (State.keepsMem_modPkg _ _ _)).trans (State.keepsMem_reportFrom ..)

theorem State.keepsMem_noteUe (s : State) (a : Nat) : State.KeepsMem s (s.noteUe a) := by
  unfold State.noteUe
  simp only []
  split
  · exact (((State.keepsMem_noteUnit _ _ _ _).trans (State.keepsMem_poison _ _)).trans
      (State.keepsMem_modIsland _ _ _)).trans (State.keepsMem_reportUe ..)
  · exact (((State.keepsMem_noteUnit _ _ _ _).trans (State.keepsMem_poison _ _)).trans
      (State.keepsMem_modPkg _ _ _)).trans (State.keepsMem_reportUe ..)

/-- A field that no memory operation reads as memory changes none. -/
theorem State.keepsMem_injected (s : State) (x : FMap Nat) : State.KeepsMem s { s with injected := x } := ⟨rfl, id⟩

/-- Stored errors that a read or a partial write meets change no memory. -/
theorem State.keepsMem_meetWhere (s : State) (f : Nat → Bool) : State.KeepsMem s (s.meetWhere f) := by
  unfold State.meetWhere
  generalize s.injected.filter (fun x => f x.1) = l
  induction l generalizing s with
  | nil => exact .refl s
  | cons x l ih =>
    rw [List.foldl_cons]
    refine State.KeepsMem.trans ?_ (ih _)
    simp only []
    split
    · exact (State.keepsMem_injected s _).trans (State.keepsMem_noteCe _ _ _)
    · exact (State.keepsMem_injected s _).trans (State.keepsMem_noteUe _ _)

theorem State.keepsMem_mergeUnits (s : State) (a n : Nat) : State.KeepsMem s (s.mergeUnits a n) :=
  State.keepsMem_meetWhere s _

/-- The undo copy of a page changes no memory. -/
theorem State.keepsMem_logPage (s : State) (p page : Nat) : State.KeepsMem s (s.logPage p page) := by
  unfold State.logPage
  simp only []
  split
  · split
    · exact .refl s
    · split
      · exact .refl s
      · split
        · exact .refl s
        · split
          · exact State.KeepsMem.trans ⟨rfl, id⟩ (State.keepsMem_report _ _)
          · have m := State.keepsMem_meetWhere s (touches (page * 4096) 4096)
            refine State.KeepsMem.trans (t := if _ then s.meetWhere (touches (page * 4096) 4096) else
              (s.meetWhere (touches (page * 4096) 4096)).reportUe (page * 4096)) ?_ ⟨rfl, id⟩
            split
            · exact m
            · exact m.trans (State.keepsMem_reportUe _ _)
  · exact .refl s

/-! ### Reads and writes of the state -/

/-- What follows the bytes of a write changes no memory. -/
theorem State.keepsMem_wrote (s : State) (a n : Nat) : State.KeepsMem s (s.wrote a n) :=
  ((State.keepsMem_unpoison s a n).trans (State.keepsMem_noteRewrite _ a n)).trans
    ((State.keepsMem_injected _ _).trans (State.keepsMem_inject _ a n))

/-- A write at a physical address writes its bytes there, and changes host memory by no more than an event. -/
theorem State.putDev_mem (s : State) (a : Nat) (l : List Byte) :
    (s.putDev a l).mem = Memory.write s.mem a l ∧
    (Memory.wf s.hostMem = true → Memory.wf (s.putDev a l).hostMem = true) := by
  have h := State.keepsMem_mergeUnits s a l.length
  have k := State.keepsMem_wrote { s.mergeUnits a l.length with mem := Memory.write (s.mergeUnits a l.length).mem a l } a
    l.length
  refine ⟨k.1.trans ?_, fun w => k.2 (h.2 w)⟩
  rw [← h.1]

theorem State.putZeros_mem (s : State) (a n : Nat) :
    (s.putZeros a n).mem = Memory.outside s.mem a n ∧
    (Memory.wf s.hostMem = true → Memory.wf (s.putZeros a n).hostMem = true) := by
  have h := State.keepsMem_mergeUnits s a n
  have k := State.keepsMem_wrote { s.mergeUnits a n with mem := Memory.outside (s.mergeUnits a n).mem a n } a n
  refine ⟨k.1.trans ?_, fun w => k.2 (h.2 w)⟩
  rw [← h.1]

/-- A write for an allotment, with its page's undo copy, writes its bytes at the address. -/
theorem State.storeDev_mem (s : State) (p a : Nat) (l : List Byte) :
    (s.storeDev p a l).mem = Memory.write s.mem a l ∧
    (Memory.wf s.hostMem = true → Memory.wf (s.storeDev p a l).hostMem = true) := by
  have h1 : State.KeepsMem s (if a < sramEnd then s else s.logPage p (a / 4096)) := by
    split
    · exact .refl s
    · exact State.keepsMem_logPage s p _
  have k := State.putDev_mem (if a < sramEnd then s else s.logPage p (a / 4096)) a l
  exact ⟨k.1.trans (by rw [h1.1]), fun w => k.2 (h1.2 w)⟩

theorem State.canonical_putDev {s : State} (h : s.Canonical) (a : Nat) (l : List Byte) : (s.putDev a l).Canonical := by
  have k := State.putDev_mem s a l
  exact ⟨by rw [k.1]; exact Memory.wf_write h.1 a l, k.2 h.2⟩

theorem State.canonical_putZeros {s : State} (h : s.Canonical) (a n : Nat) : (s.putZeros a n).Canonical := by
  have k := State.putZeros_mem s a n
  exact ⟨by rw [k.1]; exact Memory.wf_outside h.1 a n, k.2 h.2⟩

theorem State.canonical_storeDev {s : State} (h : s.Canonical) (p a : Nat) (l : List Byte) : (s.storeDev p a l).Canonical := by
  have k := State.storeDev_mem s p a l
  refine ⟨?_, k.2 h.2⟩
  rw [k.1]
  exact Memory.wf_write h.1 a l

theorem State.canonical_storeLocs {s : State} (h : s.Canonical) (p : Nat) (locs : List (Loc × Nat)) (l : List Byte) :
    (State.storeLocs p locs l s).Canonical := by
  induction locs generalizing s l with
  | nil => exact h
  | cons x t ih =>
    obtain ⟨x, n⟩ := x
    cases x with
    | dev a => exact ih (State.canonical_storeDev h p a _) _
    | host k =>
      have h' : State.Canonical { s with hostMem := Memory.write s.hostMem k (l.take n) } := ⟨h.1, Memory.wf_write h.2 k _⟩
      exact ih h' (l.drop n)

/-- A write by a requester keeps both memories canonical. -/
theorem State.canonical_store {s t : State} (h : s.Canonical) {p a : Nat} {l : List Byte} (e : s.store p a l = some t) :
    t.Canonical := by
  unfold State.store at e
  split at e
  · cases e
  · split at e
    · cases e
    · cases e
      exact State.canonical_storeLocs h p _ l

theorem State.canonical_poke {s : State} (h : s.Canonical) (p a : Nat) (l : List Byte) : (s.poke p a l).Canonical := by
  unfold State.poke
  cases e : s.store p a l with
  | none => exact h
  | some t => exact State.canonical_store h e

theorem State.canonical_hostWrite {s t : State} (h : s.Canonical) {p a : Nat} {l : List Byte}
    (e : s.hostWrite p a l = some t) : t.Canonical :=
  (State.keepsMem_hostWrite e).canonical h

theorem State.canonical_zeroMem {s : State} (h : s.Canonical) (a n : Nat) : (s.zeroMem a n).Canonical :=
  ⟨Memory.wf_outside h.1 a n, h.2⟩

/-- Restoring a page of an undo slot keeps both memories canonical, whatever the slot holds. -/
theorem canonical_restorePage {s : State} (h : s.Canonical) (ex : Excluded) (pg : Nat × List Cell × List Nat) :
    (restorePage ex s pg).Canonical := by
  have key (l m : List Cell) (hm : Memory.wf m = true) :
      Memory.wf (l.foldl (fun m c => Memory.writeByte m c.1 c.2) m) = true := by
    induction l generalizing m with
    | nil => exact hm
    | cons c t ih => exact ih _ (Memory.wf_writeByte hm c.1 c.2)
  have h0 := (State.keepsMem_meetWhere s fun u => (ex.lines pg.1).2.contains (u / 64)).canonical h
  unfold restorePage
  simp only [forEach]
  refine State.KeepsMem.canonical (State.KeepsMem.fold _ _ (fun s k => State.keepsMem_poison s _) _)
    (State.KeepsMem.canonical (State.KeepsMem.fold _ _ (fun s k => State.keepsMem_inject s _ _) _)
      (State.KeepsMem.canonical (State.KeepsMem.fold _ _ (fun s k => State.keepsMem_wrote s _ _) _) ?_))
  exact ⟨key _ _ (Memory.wf_filter h0.1 _), h0.2⟩

/-- Reset memory lists nothing. -/
theorem State.reset_mem : State.reset.mem = [] ∧ State.reset.hostMem = [] := ⟨rfl, rfl⟩

/-! ### Accesses and the window table of their issue (R351) -/

/-- An access whose window table has not changed since its issue sees the port as it stands. -/
@[simp] theorem State.withWindow_none (s : State) (p : Nat) (f : State → State) : s.withWindow p none f = f s := rfl

/-! ### Reads that meet nothing -/

theorem foldl_fixed {α β : Type} (f : α → β → α) (s : α) (h : ∀ x, f s x = s) : ∀ q : List β, q.foldl f s = s
  | [] => rfl
  | x :: t => by rw [List.foldl_cons, h]; exact foldl_fixed f s h t

/-- A read that meets no stored error, no poison and no Insecure stream gives the bytes of its ranges. -/
theorem State.reads_of {s : State} {p a n : Nat} {l : List (Loc × Nat)} (h1 : s.injected = [])
    (h2 : s.discards p a n = false) (hr : s.resolveRange p a n false = some l) (hp : s.poisonedRange l = false) :
    s.Reads p a n (s.fetch l) := by
  have hs : s.meet l .clean = s := by
    unfold State.meet
    rw [foldl_fixed _ _ (by rintro ⟨x1, x2⟩; cases x1 <;> simp [State.meetInjected, State.meetWhere, h1])]
    dsimp only
    split <;> rfl
  simp [State.Reads, State.readCk, hr, h2, hs, hp]

end Sys2Proof.Machine
end

