-- ==== Sys2Proof/Laws/Vector.lean ====
section
/-! SUPPORT. What the shared operations of the scalar and the vector classes answer when their instruction executes. -/

namespace Sys2Proof.Machine

open Host (Outcome)

/-- A three-operand scalar instruction whose result is g. -/
theorem scalarAlu_next {x : Instr} {i : Issue} {o : FS} {g : Word → Word → Word} {s : State} {k : Offer}
    (h : Executes x i (scalarRegs o) s k) :
    ∃ t, scalarAlu x i o g s = .next t ∧
      Issued s t k (k.nextPc (k.t.setReg o.rd.toNat (g (k.t.reg o.ra.toNat) (scalarB o k.t)))) :=
  issue_modThread (g := fun t => t.setReg o.rd.toNat (g (k.t.reg o.ra.toNat) (scalarB o k.t))) h rfl

/-- A scalar compare whose relation is g. -/
theorem scalarCmp_next {x : Instr} {i : Issue} {o : FS} {g : Word → Word → Bool} {s : State} {k : Offer}
    (h : Executes x i [o.ra.toNat, o.rb.toNat] s k) :
    ∃ t, scalarCmp x i o g s = .next t ∧
      Issued s t k (k.nextPc (k.t.setPred (o.rd.toNat % 8) (g (k.t.reg o.ra.toNat) (scalarB o k.t)))) :=
  issue_modThread (g := fun t => t.setPred (o.rd.toNat % 8) (g (k.t.reg o.ra.toNat) (scalarB o k.t))) h rfl

/-- The thread of an offer is the thread of its context. -/
theorem Executes.thread {x : Instr} {i : Issue} {regs : List Nat} {s : State} {k : Offer}
    (h : Executes x i regs s k) : k.site = i.site ∧ k.t = (s.core k.site).thread k.ctx := by
  have hk : k.site = i.site := h.1.1.2.2.2.1
  exact ⟨hk, by rw [hk]; exact h.1.1.2.2.2.2.2.1⟩

/-- An instruction whose execution launches an operation. -/
theorem issue_launch {x : Instr} {i : Issue} {regs : List Nat} {s : State} {k : Offer} {body : Offer → State → Res}
    {w : Bool} {kind : OpKind} (h : Executes x i regs s k) (hb : body k s = .next (s.launch k i.sb w kind)) :
    ∃ t, issue x i regs body s = .next t ∧ Launched s t k i.sb w kind := by
  obtain ⟨-, h3⟩ := h.thread
  refine issue_next h hb (State.onlyCore_setCore _ _ _) ?_ ?_ (th := k.t.setSb i.sb.toNat true) ?_
  · simp only [State.launch, State.modCore_eq, State.core_setCore]
    rfl
  · intro j hj
    simp only [State.launch, State.modCore_eq, State.core_setCore]
    exact Core.thread_setThread_ne _ _ _ hj
  · simp only [State.launch, State.modCore_eq, State.core_setCore]
    rw [h3]
    exact Core.thread_setThread _ _ _

/-- An instruction of the arithmetic pipe whose outcome is r. -/
theorem vector_enters {x : Instr} {i : Issue} {cs : BitVec 1} {cnt : BitVec 12} {vr sr : List Nat}
    {r : Offer → State → Nat → VecOut} {f : Offer → State → Nat → Except Nat VecOut}
    (h : ∀ s, exec x s = vector x i cs cnt vr sr f s)
    (hf : ∀ k s, f k s (countOf k cs cnt) = .ok (r k s (countOf k cs cnt))) : EntersPipe x i cs cnt vr sr r := by
  intro s k hx hv
  obtain ⟨hk, h3⟩ := hx.thread
  have hany : (vr.any fun v => (s.core k.site).pendingV.contains v) = false := by
    rw [List.any_eq_false]
    intro v hvm
    rw [hk]
    simp [hv v hvm]
  unfold Completes
  rw [h]
  unfold vector
  by_cases hn : countOf k cs cnt = 0
  · simp only [hn, if_true]
    refine issue_next (s' := s) (th := k.t) (f := id) hx ?_ ⟨rfl, fun _ _ => rfl⟩ rfl (fun _ _ => rfl) h3.symm
    simp only [hany, hn, if_true, Bool.false_eq_true, if_false]
  · simp only [hn, if_false]
    refine issue_next (th := k.t) (s' := s.setCore k.site { s.core k.site with
      vArith := (s.core k.site).vArith ++ [(r k s (countOf k cs cnt)).op k.ctx] }) hx ?_
      (State.onlyCore_setCore _ _ _) ?_ ?_ ?_
    · simp only [hany, Bool.false_eq_true, if_false, hn, hf]
    · rw [State.core_setCore]
      rfl
    · intro j _
      rw [State.core_setCore]
      rfl
    · rw [State.core_setCore]
      exact h3.symm

/-- The lanes that `vmap` forms. -/
theorem vmap_lanes (vd : BitVec 5) (n : Nat) (f : Nat → Word32 × Flags) :
    ({ vd := some vd.toNat, elems := (vmap n f).1, flags := (vmap n f).2 } : VecOut) = lanesOf vd n f := by
  simp [lanesOf, vmap, List.map_map, List.foldl_map]

/-- The registers of operand b, as MapsLanes names them. -/
theorem FV.vecB_eq (o : FV) (n : Nat) :
    FV.vecB o n = if n = 1 ∨ o.bs = 1 then [] else [o.vb.toNat] := by simp [FV.vecB]
theorem FV.regB_eq (o : FV) (n : Nat) :
    FV.regB o n = if n ≠ 1 ∧ o.bs = 1 then [o.vb.toNat % 16] else [] := by simp [FV.regB]

/-- An element-wise instruction whose lane function is g. -/
theorem elementwise_maps {mk : Issue → FV → Instr} {srcs : Nat}
    {f : FV → Offer → State → Nat → Word32 → Word32 → Word32 → Word32 × Flags}
    {g : FV → Offer → State → Nat → Word32 → Word32 → Word32 → Word32 × Flags}
    (h : ∀ i o s, exec (mk i o) s = elementwise (mk i o) i o srcs (g o) s)
    (hg : ∀ o k s j a b c, g o k s j a b c = f o k s j a b c) : MapsLanes mk srcs f := by
  intro i o
  rw [← FV.vecB_eq, ← FV.regB_eq]
  refine vector_enters (fun s => h i o s) ?_
  intro k s
  simp only [Except.ok.injEq, hg]
  exact vmap_lanes _ _ _

/-- The saturating INT32 result (R232). -/
theorem int32Result_eq (x : Int) : int32Result x = saturated x := by
  unfold int32Result saturated satI intMin intMax fIf
  simp only [Int.reducePow, Int.reduceSub, Int.reduceNeg, Nat.add_one_sub_one]
  by_cases h1 : x < -2147483648
  · have : (-2147483648 : Int) ≠ x := by omega
    simp [h1, this]
  · by_cases h2 : 2147483647 < x
    · have : (2147483647 : Int) ≠ x := by omega
      simp [h1, h2, this]
    · simp [h1, h2]

end Sys2Proof.Machine
end

