-- ==== Sys2Proof/Tests/Slice0.lean ====
section
/-! SUPPORT. Tests: ill-formed commands that the check refuses, instruction words written out from the encoding tables,
the worked examples of the manual, and states that meet the hypotheses of the statements. -/

namespace Sys2Proof.Tests

open Sys2Proof Sys2Proof.Machine
open Host (Outcome)

set_option maxRecDepth 100000
set_option Elab.async false

/-- The state after a step that goes on. -/
def next? (o : Outcome State Fault Refusal) : Option State := match o with | .next t => some t | _ => none

/-- Whether a step stops because the unit does not exist. -/
def unknownUnit (o : Outcome State Fault Refusal) : Bool := match o with | .fault .noSuchUnit => true | _ => false

/-! ### Ill-formed commands -/

/-- Fields of an issue slot at a site. -/
def at_ (site : Nat) : Issue := { site, pr := 0, pn := 0, wm := 0, sb := 0 }

/-- One command for each unit number that well-formedness bounds, at the first value out of range. -/
def illFormed : List Instr :=
  [.ctlNop (at_ 576) { z := 0 }, .taskStart 576, .triggerFire 576 0, .triggerFire 0 32, .wheelWatchdog 576,
   .memoryAccessComplete 576 0 0 .clean, .tileLoadComplete 576 .clean, .drainStart 576 0, .drainStart 0 2,
   .overflowReplay 0 2, .drainComplete 576 1, .predictedTileOpen 0 2, .streamEntryFetch ⟨576, 0⟩,
   .streamEntryPresent 0 16 .clean, .vectorComplete 576, .dmaDescriptor 36 .clean, .dmaChGo (.os 0) 36 0,
   .dmaChStop (.os 0) 0 32, .upAccApply 576 0 0 .clean, .reductionReport 8 0, .endOfReductionMark 8 0, .verdict 8,
   .planisherTileUpdate 12 .clean, .clearPass 12, .trustRatio 8, .planisherUpdateCompletion 12,
   .captureComplete 36 .clean, .vetchTileEvolve 36 .clean, .changeList 12 .clean, .vetchTileWrite 36, .stepBoundary 8,
   .cutConsistent 8, .pageUndoCopy 8 0, .plannedFence 576, .replayStartMark 36, .planStartMark 36, .stepMark 36,
   .boundaryMark 36, .phaseTimeRecordWrite 596 0, .ingestRecord 8, .closeRecord 8, .ingProdWrite (.host 0) 8 0,
   .ingCfgWrite (.host 0) 8 8 0 0, .sqTailDoorbell (.host 0) 0 8 8 0 0, .cqHeadWrite (.host 0) 8 0 8 0 0, .unload 8 0,
   .stop 0 8, .resume 8 0, .exportCut 0 8, .wallMark 8 0, .query 0 8, .ingotExpGo (.host 0) 8 8 0 0, .exportEnd 8,
   .validatorRequest (.host 0) 8 8 0 0, .mbxWdogWrite (.os 0) 8 8 0 0, .osWatchdogExpiry 8,
   .hostApertureAccess 8 0 4 none, .hostRequestFault 8 .other .timeout, .ideStreamInsecure 0 2, .functionLevelReset 8,
   .hotReset 8, .linkDown { port := 8, perst := false }, .d3hotEntry 8, .doeSpdmMessage 8 [], .inputFilterEnter 4, .inputFilterLeave 4,
   .inputHeldAlert 4, .sensorSample 154 none, .sensorSample 192 none, .throttleStepUp 36, .clockStepSwitch 36,
   .rampComplete 36, .idleWindDown 48, .islandClockLoss 60, .handshakeTimeout 60, .droopBeyondLimit 36,
   .coreStateError 576 .uncorrected, .memoryControllerFault 12, .spineFault 8, .sliceScrubRead ⟨576, 0⟩ .clean,
   .packageScrubRead 12 .clean]

theorem test_wf_refuses_ill_formed : ∀ c ∈ illFormed, c.wf = false := by decide +kernel

theorem test_ill_formed_faults : ∀ c ∈ illFormed, unknownUnit (exec c State.reset) = true := by decide +kernel

theorem test_no_word_spells_a_command : decodeTableWord 64 0x1600002884000000 = none := by decide

/-! ### Instruction words, field by field (Tables 1, 2 and 5 of Instruction Set Encodings) -/

/-- The common fields: class, operation, predicate 5 inverted, wait mask 0x81, scoreboard entry 6. -/
def head (cls : BitVec 4) (op : BitVec 6) (sb : BitVec 3) : BitVec 25 := cls ++ op ++ 5#3 ++ 1#1 ++ 0x81#8 ++ sb

/-- The fields of `head` as the decoder gives them. -/
def hi (sb : BitVec 3) : Issue := { site := 7, pr := 5, pn := 1, wm := 0x81, sb := sb }

theorem test_words_control :
    decode 7 (head 0 0 0 ++ 0#39) = some (.ctlNop (hi 0) { z := 0 }) ∧
    decode 7 (head 0 3 0 ++ 0x2345#14 ++ 0#4 ++ 9#4 ++ 0#17) =
      some (.ctlJal (hi 0) { tgt := 0x2345, ra := 0, rd := 9, z := 0 }) ∧
    decode 7 (head 0 10 0 ++ 0x155#9 ++ 0x2A#6 ++ 0xBEEF#16 ++ 0#4 ++ 0#1 ++ 0#3) =
      some (.ctlSig (hi 0) { c := 0x155, k := 0x2A, n := 0xBEEF, ra := 0, cr := 0, z := 0 }) := by decide +kernel

theorem test_words_scalar :
    decode 7 (head 1 0x1A 6 ++ 0#4 ++ 13#4 ++ 5#4 ++ 1#1 ++ 0x3FFFFF8#26) =
      some (.scSt (hi 6) { rd := 0, ra := 13, rb := 5, ib := 1, imm := 0x3FFFFF8 }) ∧
    decode 7 (head 1 1 0 ++ 7#4 ++ 5#4 ++ 6#4 ++ 0#1 ++ 0#26) =
      some (.scSub (hi 0) { rd := 7, ra := 5, rb := 6, ib := 0, imm := 0 }) := by decide +kernel

theorem test_words_matrix :
    decode 7 (head 2 0 6 ++ 1#1 ++ 0x2B#6 ++ 9#4 ++ 2#2 ++ 0#26) =
      some (.mxLdw (hi 6) { bk := 1, td := 0x2B, rt := 9, pc := 2, z := 0 }) ∧
    decode 7 (head 2 2 0 ++ 1#1 ++ 0#1 ++ 1#1 ++ 0x13#5 ++ 0x15#5 ++ 0xA#4 ++ 2#3 ++ 0#2 ++ 1#1 ++ 0#16) =
      some (.mxMul (hi 0) { tl := 1, bk := 0, t := 1, m := 0x13, r0 := 0x15, q := 0xA, sf := 2, pc := 0, pd := 1, z := 0 }) := by
  decide +kernel

theorem test_words_vector :
    decode 7 (head 5 0 0 ++ 0x1B#5 ++ 0x0E#5 ++ 0x15#5 ++ 0#1 ++ 0#5 ++ 2#2 ++ 1#2 ++ 1#1 ++ 1#1 ++ 0x003#12) =
      some (.vAdd (hi 0) { vd := 0x1B, va := 0x0E, vb := 0x15, bs := 0, vc := 0, ty := 2, rm := 1, ieee := 1, cs := 1, cnt := 3 }) := by
  decide +kernel

theorem test_words_streams_dma_reduction :
    decode 7 (head 6 0 6 ++ 0xA#4 ++ 1#4 ++ 2#4 ++ 3#4 ++ 4#4 ++ 0#19) =
      some (.stReq (hi 6) { q := 0xA, ra := 1, rb := 2, rc := 3, rd := 4, z := 0 }) ∧
    decode 7 (head 7 0 6 ++ 0x15#5 ++ 9#4 ++ 0#30) = some (.dmGo (hi 6) { ch := 0x15, ra := 9, z := 0 }) ∧
    decode 7 (head 8 0 6 ++ 1#4 ++ 2#4 ++ 3#4 ++ 4#4 ++ 0x11#5 ++ 0x02#5 ++ 0#1 ++ 1#1 ++ 0#1 ++ 0#1 ++ 0#4 ++ 0#5) =
      some (.upAcc (hi 6) { ra := 1, rb := 2, rx := 3, rd := 4, blk := 0x11, rows := 2, nx := 0, init := 1, last := 0, pb := 0
                            rp := 0, z := 0 }) := by decide +kernel

theorem test_words_teasel_vetch_random_power :
    decode 7 (head 3 0 6 ++ 1#1 ++ 4#4 ++ 5#4 ++ 0xCAFE#16 ++ 0#14) =
      some (.spPrd (hi 6) { tl := 1, ra := 4, rb := 5, tag := 0xCAFE, z := 0 }) ∧
    decode 7 (head 4 0 6 ++ 1#4 ++ 2#4 ++ 3#4 ++ 0#27) = some (.mkCap (hi 6) { ra := 1, rb := 2, rc := 3, z := 0 }) ∧
    decode 7 (head 9 1 0 ++ 3#5 ++ 0#5 ++ 6#4 ++ 7#4 ++ 0#3 ++ 1#2 ++ 0#3 ++ 0#1 ++ 0xFF#12) =
      some (.rnWord (hi 0) { vd := 3, vs := 0, rk := 6, rb := 7, z1 := 0, ty := 1, z0 := 0, cs := 0, cnt := 0xFF }) ∧
    decode 7 (head 10 0 6 ++ 4#4 ++ 0xC8#8 ++ 0#27) = some (.pwRamp (hi 6) { ra := 4, k := 0xC8, z := 0 }) := by decide +kernel

/-! ### Worked examples -/

/-- Module, worked example of R29: packages 2, 3 and 7, interleave on. -/
def interleaved : AllotRec :=
  { port := 0, valid := true, interleave := true, row0 := 0, row1 := 0, col0 := 0, col1 := 0, packages := 0x8C
    appCores := 1, l2Ways := 1, slotFirst := 0, slotCount := 16, apLog2 := 30, osBase := 0, osLen := 0 }

theorem test_interleave_example : interleaved.phys 0x013600053A40 = 0x01840001BA40 := by decide +kernel

theorem test_window_example :
    translate { win := [(2, 0x0000004080000007)] } 1 0x110023456789 false = some (2 ^ 64 + 0x4083456789) ∧
    translate { win := [(2, 0x0000004080000007)] } 1 0x110030000000 false = none := by decide +kernel

/-- Number Formats, Table 4: 65,520 into every narrow target. -/
theorem test_conversions_of_65520 :
    let x := val32 0x477FF000
    toFp .fp16 .rne false x = (0x7BFF, fOverflow ||| fInexact) ∧ toFp .fp16 .rne true x = (0x7C00, fOverflow ||| fInexact) ∧
    toFp .fp16 .rtz false x = (0x7BFF, fInexact) ∧ toFp .fp16 (.sr 0x3A5C) true x = (0x7C00, fOverflow ||| fInexact) ∧
    toFp .fp16 (.sr 0xC001) true x = (0x7BFF, fInexact) ∧ toFp .bf16 .rne false x = (0x4780, fInexact) ∧
    toFp .e5m2 .rne false x = (0x7B, fOverflow ||| fInexact) ∧ toFp .e5m2 .rne true x = (0x7C, fOverflow ||| fInexact) ∧
    toFp .e4m3 .rne false x = (0x7E, fOverflow ||| fInexact) ∧
    toFp .e4m3 .rne true x = (0x7F, fOverflow ||| fInexact ||| fInvalid ||| fNan) ∧
    toInt 8 .rne x = (127, fInvalid) ∧ toInt 32 .rne x = (65520, 0) := by decide +kernel

/-- Number Formats: the three pieces of 1 + 2^−9 + 2^−20. -/
theorem test_pieces_example :
    (List.range 3).map (fun k => FFmt.encode .bf16 (split3 (k + 1) (val32 0x3F804008))) = [0x3F80, 0x3B00, 0x3580] := by
  decide +kernel

/-- The products of a chunk of the matrix-array example: chunk 0 and chunk 1. -/
def chunk (l : List (Nat × Nat × Nat)) : List Val :=
  (List.range 32).map fun n => match l.find? fun x => x.1 = n with
    | some x => (FFmt.decode .bf16 x.2.1).mul (FFmt.decode .bf16 x.2.2)
    | none => Val.zero

/-- Matrix Array: dX[0, 5] is 3.0 with sticky set. -/
theorem test_accumulation_example :
    let t := (({ st := .opened } : Tile).addFp 5 false
      (chunk [(3, 0x4580, 0x4580), (17, 0x3F80, 0x3F80), (20, 0x3580, 0x3580)])).addFp 5 false
      (chunk [(8, 0x3F80, 0x3F80), (18, 0x4580, 0xC580)])
    (FMap.getD t.elems 5 0, t.sticky, t.nan, t.inf, t.ovf) = (0x40400000, true, false, false, false) := by decide +kernel

/-- The mask words of the TN2 tile of the Teasel example, and its values by position. -/
def tn2Words : List Word := 0x2041000A84500112 :: List.replicate 63 0

/-- The cells of segment 0, Table 7 of that chapter. -/
def tn2Bank : Bank :=
  { fmt := some 1, level := 2, empty := false
    cells := [(0, 0x4040, 1), (1, 0x3F80, 0), (2, 0x4080, 3), (3, 0x3F80, 4), (4, 0x4000, 0), (5, 0x4100, 7), (6, 0x3F00, 2),
      (7, 0x3F80, 3), (32, 0x4000, 6), (33, 0xC000, 4), (36, 0xBF80, 2), (38, 0xC080, 6)] }

theorem test_tn2_slots : (slotsOf 2 tn2Words).map (fun x => (x.1, x.2)) =
    [(0, 1), (32, 6), (1, 0), (33, 4), (2, 3), (3, 4), (4, 0), (36, 2), (5, 7), (6, 2), (38, 6), (7, 3)] := by decide +kernel

/-- Teasel, Table 8: the plain read into row 0 of ta. -/
theorem test_tn2_plain_read :
    let t := ({ st := .opened } : Tile).streamRow tn2Bank false 0 0 0 false
      fun k => .fp (if k < 8 then Val.ofInt (k + 1) else Val.zero)
    (List.range 8).map (fun c => FMap.getD t.elems c 0) =
      [0x41A00000, 0xC1100000, 0x41800000, 0x40A00000, 0xBF800000, 0x42800000, 0xC1D40000, 0x40800000] := by decide +kernel

/-- Mask Evolution, Table 10: pruned, grown, rejected and stale counts and the two changed words. -/
theorem test_evolve_example :
    let vals : List (Nat × Int × Int) := [(1, 1, 0), (4, 2, 0), (32, 3, 0), (68, 1, 0), (70, 1, -1), (98, 4, 0), (103, 1, 0),
      (129, 2, 0), (131, 1, 0), (192, 2, 0), (198, 4, 0), (229, 8, 0)]
    let e := evolveTile 2 tn2Words 0x400000 0x30000
      (fun pos => match vals.find? fun v => v.1 = pos with | some v => .fin false v.2.1.natAbs v.2.2 | none => .nan)
      [(101, 0, 0), (160, 0, 0), (65, 0, 0), (161, 0, 0), (166, 0, 0), (323, 0, 0), (7, 0, 0)]
    (e.masks.getD 0 0, e.masks.getD 4 0, e.pruned, e.grown.map Prod.fst, e.rejected, e.stale, e.quota) =
      (0x2041400A84020110, 0x0000000000080000, [70, 1, 68], [65, 166, 323], 3, 0, 0) := by decide +kernel

/-- The Backward Pass: G16 rows 0 and 1 of the compacting drain. -/
theorem test_g16_example :
    let row (l : List Int) : List Val := (List.range 32).map fun j => Val.ofInt (l.getD j 0)
    let a := g16Encode ([Val.ofInt 2, Val.ofInt (-1), Val.ofInt 8, .fin false 5 (-1), Val.ofInt 1, Val.ofInt 2, Val.ofInt 3,
      Val.ofInt 12] ++ List.replicate 24 Val.zero) (fun _ => .rne) false
    let b := g16Encode (row [7, -5, 0, 0, 3, 0, 7, 0]) (fun _ => .rne) false
    (a.1, a.2.1.take 8, a.2.2, b.1, b.2.1.take 8) =
      (-11, [0x6C00, 0xE800, 0x7400, 0x6D00, 0x6800, 0x6C00, 0x6E00, 0x7600], 0, -12,
        [0x7700, 0xF500, 0, 0, 0x7200, 0, 0x7700, 0]) := by decide +kernel

/-- Parameter Update: the verdict of the clipped step. -/
theorem test_verdict_example :
    let d := decideVerdict (normOf { sum := 26214400 * 2 ^ 149 } 10) 3 0 0x42C80000 0x40200000
    (bits32 d.norm, d.outcome, d.cause, bits32 d.factor, lossScale 0x180003E84F4F0000 d.outcome d.cause 10 999) =
      (0x40A00000, 1, 0, 0x3F000000, 11, 0) := by decide +kernel

/-- Parameter Update: the slot of the clipped AdamW step. -/
theorem test_adamw_example :
    let g : GroupEnt := { rule := 1, lrCurve := 0, biasCorr := true, lrBase := 0x3A800000, beta1 := 0x3F600000
                          beta2 := 0x3F700000, eps := 0x35800000, lambda := 0, trMax := 0, assayPeriod := 0 }
    let r := applyRule { g, eta := .fin false 1 (-10), b1 := .fin false 1 (-3), b2 := .fin false 1 (-4), tr := Val.one }
      { w := Val.one, m1 := Val.zero, m2 := Val.zero } (.fin false 1 (-3))
    (bits32 r.1.w, bits32 r.1.m1, bits32 r.1.m2, bits32 r.2, workingCopy 0 r.1.w) =
      (0x3F7FC000, 0x3C800000, 0x3A800000, 0x3F7FFF80, 0x3F80) := by decide +kernel

/-- Vector Engine: mean 4.0 and variance 4.5 over two chunks. -/
theorem test_mean_variance_example :
    let r := meanVar false false ((List.range 64).map fun j => Val.ofInt (if j < 16 then 1 else if j < 32 then 3 else 6))
    (bits32 r.2.1 ++ bits32 r.1, r.2.2) = (0x4090000040800000#64, 0#5) := by decide +kernel

/-- Tensor Layout: request A of the G32 example. -/
def g32 : DescImg :=
  { base := 0x2B2100000, allocBase := 0x2B2100000, allocLen := 12288, aux := 0, e0 := 80, e1 := 64, e2 := 1, e3 := 1
    sLo := 0, sHi := 0, kind := 1, format := 1, access := 3, shape := 1, rsv := 0 }

theorem test_g32_example : elemNib g32 470 = 2 * 0x2B210214C := by decide +kernel

/-- Request B: the nesting test passes with s0 = 80 and fails with s0 = 79. -/
def strided (s0 : Word) : DescImg :=
  { base := 0x2B2200000, allocBase := 0x2B2200000, allocLen := 10240, aux := 0, e0 := 64, e1 := 80, e2 := 1, e3 := 1
    sLo := s0 + 0x100000000, sHi := 0, kind := 0, format := 1, access := 2, shape := 2, rsv := 0 }

theorem test_nesting_example : nestingOk (strided 80) = true ∧ nestingOk (strided 79) = false := by decide +kernel

/-- Streams and DMA: PM32 of the two groups, and sum64 of the bytes. -/
theorem test_pm32_example :
    let a := pm32Store 16 ((List.range 32).map fun j => if j = 0 then 0x3F80 else if j = 5 then 0x8000 else if j = 31 then 0x4000 else 0)
    let b := pm32Store 16 ((List.range 32).map fun j => if j = 7 then 0 else 0x3C00)
    (a, (a ++ b).length, sum64 (a ++ b)) =
      ([0x21, 0, 0, 0x80, 0x80, 0x3F, 0, 0x80, 0, 0x40], 78, 0x6002E38260012021) := by decide +kernel

/-- Register Maps: TILE_STAT, TILE_CNT, and the half reads of DMA_CH5_CTL of island 14. -/
def mapsState : State :=
  { State.reset with
    supply := { on := true }
    hm := { Hallmark.reset with inForce := [{ interleaved with row1 := 5, col1 := 5 }] }
    cores := [(230, { ta := { recs := List.replicate 2 { src := none, bank := 0, t := true, sf := 1, piece := 0, r0 := 0, m := 1
                                                         rows := [] }, sticky := true, cnt := 64, scaleLog2 := 0 } })]
    islands := [(14, { chans := [(5, { irqMore := 3, ending := 2 })] })] }

theorem test_register_example :
    mapsState.regValue (.core 230) 0x88 = 0x4040 ∧ mapsState.regValue (.core 230) 0x90 = 0x40 ∧
    mapsState.regValue (.island 14) 0x20A0 = 0xFFFF030000000040 := by decide +kernel

theorem test_lower_half_read_clears_nothing :
    (next? (exec (.rcRegisterRead (.os 0) 0xF10000E020A0 4) mapsState)).map (·.regValue (.island 14) 0x20A0) =
      some 0xFFFF030000000040 := by decide +kernel

theorem test_upper_half_read_clears_irq_more :
    (next? (exec (.rcRegisterRead (.os 0) 0xF10000E020A4 4) mapsState)).map (·.regValue (.island 14) 0x20A0) =
      some 0xFFFF000000000040 := by decide +kernel

/-- Hallmark: a second edge 0.5 µs after the last is chatter. -/
theorem test_chatter_example :
    let f : Filter := { filterDefault 1 with started := true, active := true, prev := true, sinceEdge := 300 }
    let g := f.sample false
    let h := ([false, false, false, false, true].foldl Filter.sample g)
    (g.chatter, g.lo, h.chatter, h.calm, h.hi) = (0, 1, 1, 0, 1) := by decide +kernel

/-! ### States that meet the hypotheses of the statements -/

def rec0 : AllotRec :=
  { interleaved with interleave := false, packages := 1, osBase := 0x011000000000, osLen := 0x10000000 }

/-- A task entry of context 0 that may retry three times. -/
def entry0 : BitVec 128 := 0x70000

/-- A powered module whose core 0 offers the word of x to context 0 of task 0, f being what else the core holds. -/
def ready (x : Instr) (regs : FMap Word) (f : Core → Core) : State :=
  { State.reset with
    supply := { on := true }
    hm := { Hallmark.reset with fwState := 0, inForce := [rec0] }
    islands := [(0, { tested := 0xFFFF })]
    cores := [(0, f { code := [(0, (encode x).getD 0)], wheel := [(0, 0)], left := 1, hold := false, bound := true
                      threads := [(0, { st := .active, regs := regs })], tasks := [(0, entry0)]
                      runs := [(0, { live := true })] })] }

/-- No injected error stands or is armed. -/
def uninjected (s : State) : Bool :=
  s.injected.isEmpty && s.islands.all (fun x => !x.2.inj.getLsbD 0) && s.packages.all (fun x => !x.2.inj.getLsbD 0)

theorem test_no_injection {s : State} (h : uninjected s = true) : s.NoInjection := by
  simp only [uninjected, Bool.and_eq_true, List.isEmpty_iff, List.all_eq_true, Bool.not_eq_true'] at h
  refine ⟨h.1.1, fun i => ?_, fun n => ?_⟩
  · unfold State.island FMap.getD
    cases hf : FMap.find i s.islands with
    | none => rfl
    | some x => exact h.1.2 _ (FMap.find_mem hf)
  · unfold State.pkg FMap.getD
    cases hf : FMap.find n s.packages with
    | none => rfl
    | some x => exact h.2 _ (FMap.find_mem hf)

/-- A range can be read, no stored error stands, and it holds no poison. -/
def readable (s : State) (p a n : Nat) : Bool :=
  s.injected.isEmpty && !s.discards p a n && (s.resolveRange p a n false).any fun l => !s.poisonedRange l

theorem test_reads {s : State} {p a n : Nat} (h : readable s p a n = true) : ∃ l, s.Reads p a n l := by
  simp only [readable, Bool.and_eq_true, List.isEmpty_iff, Bool.not_eq_true'] at h
  cases hr : s.resolveRange p a n false with
  | none => simp [hr] at h
  | some l => exact ⟨_, State.reads_of h.1.1 h.1.2 hr (by simpa [hr] using h.2)⟩

/-- The offer of context 0. -/
def offer (s : State) : Offer := { site := 0, ctx := 0, allot := 0, task := 0, t := (s.core 0).thread 0 }

/-- Operands of format S. -/
def S (rd ra rb : BitVec 4) (ib : BitVec 1) (imm : BitVec 26) : FS := { rd, ra, rb, ib, imm }

/-- One instruction of each scalar row. -/
def scalars : List Instr :=
  ([.scAdd, .scSub, .scMul, .scAnd, .scOr, .scXor, .scShl, .scShr, .scShru, .scMin, .scMax, .scMinu, .scMaxu,
   .scCeq, .scCne, .scClt, .scCle, .scCltu, .scCleu] : List (Issue → FS → Instr)).map (fun m => m (at_ 0) (S 7 5 6 0 0)) ++
  [.scLi (at_ 0) (S 7 0 0 1 9), .scSli (at_ 0) (S 7 5 0 1 9), .scPset (at_ 0) (S 3 1 2 1 9), .scLd (at_ 0) (S 7 5 0 1 8),
   .scLdw (at_ 0) (S 7 5 0 1 4), .scSt (at_ 0) (S 0 5 6 1 8), .scStw (at_ 0) (S 0 5 6 1 4), .scFlg (at_ 0) (S 7 0 0 0 0),
   .scFlgc (at_ 0) (S 7 0 0 0 0), .scCsr (at_ 0) (S 7 0 0 1 0x88)]

/-- Operands of format V: four elements of v2 and vb into v1. -/
def V (vb vc : BitVec 5) (ty : BitVec 2) : FV := { vd := 1, va := 2, vb, bs := 0, vc, ty, rm := 0, ieee := 0, cs := 0, cnt := 3 }

/-- One instruction of each row of the arithmetic pipe. -/
def vectors : List Instr :=
  ([.vAdd, .vSub, .vMul, .vMax, .vMin, .vDiv, .vCeq, .vCne, .vClt, .vCle, .vCgt, .vCge, .vCun] :
    List (Issue → FV → Instr)).map (fun m => m (at_ 0) (V 3 0 0)) ++
  ([.vIadd, .vIsub, .vImul, .vAnd, .vOr, .vXor, .vShl, .vShr, .vShru] :
    List (Issue → FV → Instr)).map (fun m => m (at_ 0) (V 3 0 1)) ++
  ([.vFma, .vSel] : List (Issue → FV → Instr)).map (fun m => m (at_ 0) (V 3 4 0)) ++
  ([.vAbs, .vNeg, .vSqrt, .vExp2, .vLog2] : List (Issue → FV → Instr)).map (fun m => m (at_ 0) (V 0 0 0)) ++
  [.vCvt (at_ 0) (V 0 2 0), .vPack (at_ 0) (V 3 4 0), .vUnpk (at_ 0) (V 3 0 0), .vPerm (at_ 0) (V 3 0 0),
   .vBcast (at_ 0) { V 5 0 0 with bs := 1 },
   .vTr32 (at_ 0) { V 0 0 0 with cnt := 1023 }, .vIns (at_ 0) { V 4 0 0 with va := 3, bs := 1, cnt := 0 }]

/-- Operands of format VR: four elements of v2 into s7. -/
def R (ri : BitVec 4) (vb : BitVec 5) : FVR := { rd := 7, ri, va := 2, vb, tb := 0, u := 0, ty := 0, rm := 0, ieee := 0, cs := 0, cnt := 3 }

/-- One instruction of each reduction row. -/
def reductions : List Instr :=
  [.vSum (at_ 0) (R 5 0), .vSsq (at_ 0) (R 5 0), .vDot (at_ 0) (R 5 3), .vRmax (at_ 0) (R 5 0), .vRmin (at_ 0) (R 5 0),
   .vMv (at_ 0) (R 0 0), .vCnt (at_ 0) { R 0 0 with ty := 1 }, .vExt (at_ 0) { R 5 0 with cnt := 0 }]

/-- Operands of format VM: four elements of v1 at slot 5. -/
def VM (ro : BitVec 4) (vx : BitVec 5) : FVM := { vr := 1, td := 5, ro, vx, bd := 0, ty := 0, rm := 0, ieee := 0, cs := 0, cnt := 3 }

/-- One instruction of each vector memory row. -/
def vms : List Instr :=
  [.vLd (at_ 0) (VM 5 0), .vSt (at_ 0) (VM 5 0), .vGth (at_ 0) (VM 0 2), .vSct (at_ 0) (VM 0 2), .vSadd (at_ 0) (VM 0 2)]

/-- Operands of the other rows. -/
def oZ : FZ := { z := 0 }
def oK (k : BitVec 6) (n : BitVec 16) : FK := { c := 0, k, n, ra := 0, cr := 0, z := 0 }
def oLdw : FXL := { bk := 1, td := 5, rt := 3, pc := 0, z := 0 }
def oPre : FXP := { tl := 1, md := 0, ty := 0, ra := 3, z := 0 }
def oMul : FXM := { tl := 0, bk := 0, t := 1, m := 0, r0 := 0, q := 1, sf := 1, pc := 0, pd := 0, z := 0 }
def oDrn (md : BitVec 2) (fm : BitVec 4) : FXD :=
  { tl := 0, md, fm, un := 0, sw := 0, lam := 0, td := if md = 2 then 5 else 0, ra := 3, z1 := 0, rm := 0, ieee := 0, rt := 0, rx := 0
    rs := 0, z0 := 0 }
def oPrd : FSP := { tl := 0, ra := 3, rb := 4, tag := 0x55, z := 0 }
def oCap : FMK := { ra := 3, rb := 4, rc := 5, z := 0 }
def oReq : FST := { q := 1, ra := 3, rb := 4, rc := 5, rd := 6, z := 0 }
def oQ (vd : BitVec 5) (kk : BitVec 12) : FQ := { vd, q := 1, kk, ty := 0, z := 0 }
def oD (ra : BitVec 4) : FD := { ch := 2, ra, z := 0 }
def oAcc : FU := { ra := 3, rb := 4, rx := 0, rd := 5, blk := 0, rows := 0, nx := 1, init := 0, last := 1, pb := 0, rp := 0, z := 0 }
def oRn (vs : BitVec 5) (ty : BitVec 2) : FRN := { vd := 1, vs, rk := 3, rb := 4, z1 := 0, ty, z0 := 0, cs := 0, cnt := 3 }
def oPw (ra : BitVec 4) : FPW := { ra, k := 2, z := 0 }

/-- One instruction of each row of the other classes. -/
def others : List Instr :=
  [.ctlNop (at_ 0) oZ, .ctlHalt (at_ 0) oZ, .ctlBr (at_ 0) { tgt := 3, ra := 0, rd := 0, z := 0 },
   .ctlJal (at_ 0) { tgt := 3, ra := 0, rd := 4, z := 0 }, .ctlJr (at_ 0) { tgt := 0, ra := 4, rd := 0, z := 0 },
   .ctlWhl (at_ 0) (oK 1 0), .ctlBar (at_ 0) (oK 2 2), .ctlSig (at_ 0) (oK 2 2), .ctlSwt (at_ 0) (oK 2 2),
   .mxLdw (at_ 0) oLdw, .mxPre (at_ 0) oPre, .mxMul (at_ 0) oMul, .mxDrn (at_ 0) (oDrn 0 0), .mxDrn (at_ 0) (oDrn 2 9),
   .spPrd (at_ 0) oPrd, .mkCap (at_ 0) oCap, .stReq (at_ 0) oReq, .stPop (at_ 0) (oQ 1 0), .stRel (at_ 0) (oQ 0 1),
   .dmGo (at_ 0) (oD 3), .dmStop (at_ 0) (oD 0), .upAcc (at_ 0) oAcc, .upFin (at_ 0) oZ, .rnWord (at_ 0) (oRn 0 1),
   .rnDrop (at_ 0) (oRn 2 0), .pwRamp (at_ 0) (oPw 3), .pwBsel (at_ 0) (oPw 0)]

/-- One instruction of every row executes in a state of its own, with every register it may read free. -/
theorem test_every_instruction_executes :
    ∀ x ∈ scalars ++ vectors ++ reductions ++ vms ++ others,
      Executes x (at_ 0) (List.range 16) (ready x [] id) (offer (ready x [] id)) := by
  unfold Executes Offered Reached State.Up
  decide +kernel

/-- The module holds plan0 at allotment 0. -/
def plan0 : Plan :=
  { img := { magic := 0x4C504255, formatMajor := 1, formatMinor := 0, revision := 0x20, imageLength := 0, layoutCount := 1
             planId := 7, jobSeed := 1, headerOk := true, imageOk := true, imageDigest := 0, sections := [] }
    layout := 0, cores := 1, packages := [0], sites := [0], loadSites := [0], updates := [], works := [], layers := [], maskCurves := []
    probes := [], groups := [], groupCurves := [], sweeps := []
    stream := { hdr := { window := false, realTime := false, batch := 1, manSlot := 1, manCore := 0, t0 := 0, width := 1
                         lag := 0, manOff := 0x3000, rejK := 4, phK := 4, rejBase := 0x010000100000
                         phBase := 0x010000200000 }, classes := [], queues := [], owners := [] }
    ckpt := none
    point := { step := 0, temp := 85, tempTol := 10, clkTol := 0, hostMax := 0, ballast := 255 }
    boundCurves := [], plnBounds := [], ingestBound := 0 }

/-- The state with a plan loaded in allotment 0. -/
def planned (pl : Plan) (s : State) : State := { s with spines := [(0, { st := .loaded, plan := some pl })] }

theorem test_flag_reads :
    let x : Instr := .scFlg (at_ 0) (S 7 0 0 0 0)
    let busy := ready x [] fun c => { c with vArith := [{ ctx := 0, vd := none, elems := [], sd := none, flags := 1, lanes := 0 }] }
    ((ready x [] id).core 0).flagsPending 0 = false ∧ (busy.core 0).flagsPending 0 = true ∧
    Executes x (at_ 0) [7] busy (offer busy) ∧ (busy.core 0).waited + 1 ≠ 2 ^ (busy.core 0).wdogLog2 := by
  unfold Executes Offered Reached State.Up
  decide +kernel

theorem test_scalar_addresses :
    let s := ready (.scLd (at_ 0) (S 7 5 0 1 8)) [(5, 64)] id
    (offer s).t.reg 5 + (8 : BitVec 26).signExtend 64 = BitVec.ofNat 64 72 ∧ (s.resolveRange 0 72 8 false).isSome = true ∧
    (s.resolveRange 0 72 4 false).isSome = true ∧ (s.resolveRange 0 72 8 true).isSome = true ∧
    (s.resolveRange 0 72 4 true).isSome = true ∧ s.resolveRange 0 0x3000000 8 false = s.resolveRange 0 0x3000000 8 true ∧
    s.resolveRange 0 0x30000000 8 false = none ∧ teIdem ((s.core 0).task 0) = true ∧
    ((s.core 0).run 0).retries < teRetryLimit ((s.core 0).task 0) := by decide +kernel

theorem test_wheel_entries :
    let x : Instr := .ctlWhl (at_ 0) (oK 1 0)
    ((ready x [] id).core 0).left ≤ 1 ∧ 2 ≤ ((ready x [] fun c => { c with left := 2 }).core 0).left := by decide +kernel

theorem test_signal_and_barrier_states :
    let sig := planned plan0 (ready (.ctlSig (at_ 0) (oK 2 2)) [] id)
    let swt := ready (.ctlSwt (at_ 0) (oK 2 2)) [] fun c => { c with slots := [(2, { count := 2 })] }
    let bar (n : Nat) := ready (.ctlBar (at_ 0) (oK 2 2)) [] fun c => { c with bars := [(2, { count := n, task := 0, waiters := [] })] }
    (sig.spine 0).plan = some plan0 ∧ 0 < plan0.cores ∧ 2 ≤ (FMap.getD (swt.core 0).slots 2 {}).count ∧
    (FMap.getD ((bar 0).core 0).bars 2 {}).count + 1 < 2 ∧ ¬ (FMap.getD ((bar 1).core 0).bars 2 {}).count + 1 < 2 := by
  decide +kernel

/-- The parked thread of a barrier goes on when the last one arrives. -/
theorem test_barrier_release :
    let s := ready (.ctlBar (at_ 0) (oK 2 2)) [] fun c => { c with
      bars := [(2, { count := 1, task := 0, waiters := [1] })]
      threads := c.threads ++ [(1, { st := .active, waiting := some 2 })] }
    (next? (exec (.ctlBar (at_ 0) (oK 2 2)) s)).map (fun t => (((t.core 0).thread 1).waiting, FMap.getD (t.core 0).bars 2 {})) =
      some (none, {}) := by decide +kernel

theorem test_vector_counts :
    ∀ x ∈ vectors ++ reductions, ∀ v ∈ [1, 2, 3, 4], v ∉ ((ready x [] id).core 0).pendingV := by decide +kernel

theorem test_transpose_counts :
    countOf (offer (ready (.ctlNop (at_ 0) oZ) [] id)) 0 1023 = 1024 ∧
    countOf (offer (ready (.ctlNop (at_ 0) oZ) [] id)) 0 3 % 1024 ≠ 0 := by decide +kernel

/-- A one-dimensional FP32 tensor of eight elements in slice 0. -/
def eight : DescImg :=
  { base := 0x10000, allocBase := 0x10000, allocLen := 32, aux := 0, e0 := 8, e1 := 1, e2 := 1, e3 := 1, sLo := 1, sHi := 0
    kind := 0, format := 0, access := 3, shape := 1, rsv := 0 }

/-- What a vector memory row hands over. -/
def vmem (op : VMemOp) (idx : List Int) (data : List Word32) : VMem :=
  { op, vr := 1, desc := eight, off := 0, idx, n := 4, ty := 0, rm := 0, ieee := false, data, key := {} }

theorem test_vector_memory_states :
    let s := planned plan0 (ready (.vLd (at_ 0) (VM 5 0)) [] fun c => { c with tds := [(5, eight)] })
    FMap.find 5 (s.core 0).tds = some eight ∧ eight.access.getLsbD 0 = true ∧ eight.access.getLsbD 1 = true ∧ eight.kind ≠ 2 ∧
    (∀ op ∈ [VMemOp.ld, .st, .gth, .sct, .sadd], vmemCause s 0 (vmem op [0, 0, 0, 0] [0, 0, 0, 0]) false 0 = none) := by
  decide +kernel

/-- Vector Engine: the scatter-add of the worked example, with its repeats and its dropped lanes. -/
theorem test_scatter_add_example :
    let s := planned plan0 (ready (.vSadd (at_ 0) (VM 0 2)) [] id)
    let v : VMem := { vmem .sadd [3, 3, -1, 3, 8, 0] [0x4B800000, 0x3F800000, 0x40A00000, 0x3F800000, 0x40E00000, 0x3F000000] with n := 6 }
    let r := applyVmem s 0 0 v .clean
    ((List.range 8).map fun j => ofLe (Memory.read r.s.mem (0x10000 + 4 * j) 4), r.flags, r.cause) =
      ([0x3F000000, 0, 0, 0x4B800000, 0, 0, 0, 0], fInexact, none) := by decide +kernel

/-- A sparse BF16 tensor of one TN8 tile in slice 0. -/
def sparse : DescImg :=
  { base := 0x20000, allocBase := 0x20000, allocLen := 0x1000, aux := 0, e0 := 32, e1 := 32, e2 := 1, e3 := 1, sLo := 0, sHi := 0
    kind := 2, format := 1, access := 3, shape := 8, rsv := 0 }

theorem test_load_path_states :
    let s := ready (.mxLdw (at_ 0) oLdw) [(3, 0)] fun c => { c with tds := [(5, sparse)] }
    FMap.find 5 (s.core 0).tds = some sparse ∧ ((offer s).t.reg 3).toNat < sparse.tiles ∧
    (∀ r ∈ tileRanges sparse 0, s.reach 0 false r = true) ∧ (s.core 0).ta.st ≠ .replaying ∧ (s.core 0).tileBusy 1 = false ∧
    ownRange s (offer s) 0x1000 4096 false = true ∧ ownRange s (offer s) 0x1000 128 false = true ∧
    ownRange s (offer s) 0x1000 16 false = true := by decide +kernel

/-- A queue of 64-byte entries with one present entry. -/
def oneEntry : Queue :=
  { cfg := 0x0004000010000001, ring := [{ pos := 0x1000, src := 0, st := .present, task := 0, tile := none, flushed := false }] }

theorem test_multiply_state :
    let s := ready (.mxMul (at_ 0) oMul) [] fun c => { c with queues := [(1, oneEntry)] }
    let c := s.core 0
    c.tileBusy 0 = false ∧ c.preloading 0 = false ∧ (c.bank 0).loading = false ∧ mulReserved c oMul = false ∧
    (c.queue 1).head 1 = some oneEntry.ring ∧ s.poisonAt 0 (0x1000, rowBytes (c.bank 0) true 1) = false := by decide +kernel

theorem test_drain_states :
    let s := ready (.mxDrn (at_ 0) (oDrn 0 0)) [(3, 0x4000)] id
    let t := ready (.mxDrn (at_ 0) (oDrn 2 9)) [(3, 0x4000)] fun c => { c with
      tds := [(5, { sparse with e0 := 32, e1 := 128, shape := 2, sLo := 0x30000 })] }
    drainTarget ((s.core 0).tile 0) 0 = true ∧ ownRange s (offer s) 0x4000 (32 * rowLen 0) true = true ∧
    drainTarget ((t.core 0).tile 0) 9 = true ∧ (tileDesc (t.core 0) 5 0).isSome = true ∧
    ownRange t (offer t) 0x4000 (8 * rowLen 9) true = true ∧ ownRange t (offer t) (0x4000 + 2048) 8 true = true ∧
    t.reach 0 false (0x30000, 512) = true := by decide +kernel

/-- A trained tile of layer 0 in slice 0, with its buffer, state region, mask and list. -/
def upd0 : UpdateRec :=
  { valueAddr := .rel 0 0x20000, bufAddr := .rel 0 0x50000, stateAddr := 0x010000800000, parkAddr := 0, group := 0, fmt := 0
    tier3 := false, planisher := 0, tile := 0 }
def work0 : WorkRec := { valueAddr := .rel 0 0x20000, maskAddr := .rel 0 0x30000, listAddr := 0x010000900000, tile := 0, layer := 0 }
def layer0 : LayerRec :=
  { firstStep := 0, lastStep := 1000, period := 2, level := 4, dropCurve := 0, densCurve := 0, init := 0, alpha := 0, listLen := 4
    group := 0, blockBase := .abs 0, bcols := 1 }
def plan1 : Plan :=
  { plan0 with updates := [upd0], works := [work0], layers := [(0, layer0)], maskCurves := [{ count := 1, points := [(0, 0x400000)] }] }

theorem test_capture_state :
    let s := planned plan1 (ready (.mkCap (at_ 0) oCap) [] id)
    (s.spine 0).plan = some plan1 ∧ plan1.works[((offer s).t.reg 3).toNat]? = some work0 := by decide +kernel

theorem test_stream_states :
    let s := ready (.stReq (at_ 0) oReq) [(4, 3)] fun c => { c with queues := [(1, oneEntry)] }
    let p := ready (.stPop (at_ 0) (oQ 1 0)) [] fun c => { c with queues := [(1, oneEntry)] }
    (s.core 0).queue 1 = oneEntry ∧ oneEntry.cfg.getLsbD 0 = true ∧ oneEntry.reqs.length < 64 ∧ 1 ∉ (p.core 0).pendingV ∧
    oneEntry.head 1 = some oneEntry.ring := by decide +kernel

theorem test_channel_states :
    let s := { ready (.dmGo (at_ 0) (oD 3)) [(3, 0x10040)] id with islands := [(0, { tested := 0xFFFF, chans := [(2, { owner := 0 })] })] }
    let r := { s with islands := [(0, { tested := 0xFFFF, chans := [(2, { owner := 0, st := .ready })], readyOrder := [2] })] }
    ((s.island 0).chan 2).owner.toNat = (s.core 0).rel ∧ ((s.island 0).chan 2).st = .idle ∧
    ((r.island 0).chan 2).st = .ready := by decide +kernel

theorem test_reduction_states :
    let s := ready (.upAcc (at_ 0) oAcc) [(3, 0x4000), (4, 0x5000), (5, 0x50000)] id
    let u : UpAcc := { src := 0x4000, srcScale := 0x5000, sx := none, dst := 0x50000, dstScale := 0x50800, blk := 0, rows := 1
                       init := false, last := true, probe := false, step := 0 }
    upAccOk s (offer s) u = true ∧ (s.core 0).accOut = 0 := by decide +kernel

theorem test_offers_that_do_not_execute :
    let nop : Instr := .ctlNop { at_ 0 with pn := 1 } oZ
    let s := ready nop [] id
    let add : Instr := .scAdd { at_ 0 with wm := 1 } (S 7 5 6 0 0)
    let w := ready add [] fun c => { c with threads := [(0, { st := .active, sbs := 1 })] }
    let r := ready nop [] fun c => { c with code := [(0, 0x1000043AB0000001)] }
    Offered nop { at_ 0 with pn := 1 } s (offer s) ∧ (offer s).t.pred 0 = true ∧
    encode add = some ((w.core 0).word 0) ∧ ((w.core 0).thread 0).sbs &&& 1 ≠ 0 ∧
    reservedWord ((r.core 0).word 0) = true ∧ teIdem ((r.core 0).task 0) = true := by
  unfold Offered Reached State.Up
  decide +kernel

/-! Events and commands: tasks, signals and memory. -/

/-- A powered core 0 of allotment 0, f being what else it holds. -/
def idleCore (f : Core → Core) : State := planned plan0 (ready (.ctlNop (at_ 0) oZ) [] f)

/-- The bytes a read answers with, where it answers with data. -/
def dataOf (r : ReadResult × State) : Option (List Byte) := match r.1 with | .data l => some l | _ => none

theorem test_task_states :
    let fired := idleCore fun c => { c with threads := [], runs := [(0, { pending := some 3 })] }
    let trig := idleCore fun c => { c with
      tasks := [(1, BitVec.ofNat 128 (2 ^ 54 + 2 ^ 41 + 4 * 2 ^ 35 + 2 * 2 ^ 19))], slots := [(4, { count := 5, step := 9 })] }
    let wait := idleCore fun c => { c with stall := true }
    fired.Up ∧ fired.wheelRuns 0 = true ∧ (fired.core 0).taskOf (fired.core 0).wheelCtx = some 0 ∧
    ((fired.core 0).thread 0).st ≠ .active ∧ ((fired.core 0).run 0).restart.or ((fired.core 0).run 0).pending = some 3 ∧
    (trig.core 0).bound = true ∧ (trig.core 0).hold = false ∧ teTrigger ((trig.core 0).task 1) = 1 ∧
    teTrigSlot ((trig.core 0).task 1) = 4 ∧ teTrigCount ((trig.core 0).task 1) = 2 ∧
    wait.wheelRuns 0 = true ∧ wait.allotOfSite 0 = some 0 ∧ ((wait.core 0).thread (wait.core 0).wheelCtx).st = .active ∧
    ((wait.core 0).run 0).retries < teRetryLimit ((wait.core 0).task 0) := by
  unfold State.Up
  decide +kernel

theorem test_signal_delivery_state :
    let g : Signal := { src := 0, srcSite := 0, after := [], dst := 0, slot := 4, n := 2, step := 7 }
    let s := { idleCore id with signals := [g] }
    g.ready s = true ∧ s.allotOfSite 0 = some 0 ∧
    (next? (exec (.signalDelivery 0) s)).map (fun t => FMap.getD (t.core 0).slots 4 {}) = some { count := 2, step := 7 } := by
  decide +kernel

/-- Core 0 with one operation of context 0 in flight on sb2. -/
def flying (k : OpKind) : State := idleCore fun c => { c with inflight := [{ id := 0, ctx := 0, sb := 2, task := 0, write := false, kind := k, pc := 0 }] }

theorem test_access_completion_states :
    let s := flying (.store 64 [1, 2, 3, 4])
    let l := flying (.load 7 64 true)
    let w : State := { flying (.load 7 0x100000000000 true) with ports := [(0, { win := [(0, 0x7)] })] }
    s.resolveRange 0 64 4 true = some [(.dev 64, 4)] ∧ l.resolveRange 0 64 4 false = some [(.dev 64, 4)] ∧
    l.poisoned 64 4 = false ∧ region 0x100000000000 = .window 0 ∧ translate (w.port 0) 0 0x100000000000 false = some 0 ∧
    (next? (exec (.memoryAccessComplete 0 0 2 .clean) s)).map (fun t => Memory.read t.mem 64 4) = some [1, 2, 3, 4] := by
  decide +kernel

theorem test_vector_delivery :
    let v : VecOp := { ctx := 0, vd := some 1, elems := [(0, 5), (2, 9)], sd := some (7, 8), flags := 1, lanes := 2 }
    let s := idleCore fun c => { c with vArith := [v], vecLane := 0xFFFFFFFF }
    v.elems.Pairwise (fun a b => a.1 ≠ b.1) ∧
    (next? (exec (.vectorComplete 0) s)).map (fun t => ((t.core 0).velem 1 2, ((t.core 0).thread 0).reg 7, (t.core 0).vecLane)) =
      some (9, 8, 0xFFFFFFFF) := by decide +kernel

/-! The array, streams and DMA. -/

/-- Core 0 with one transfer on its load path. -/
def loading (k : LoadKind) : State := idleCore fun c => { c with loadPath := [{ ctx := 0, sb := 2, task := 0, kind := k, pc := 0 }] }

theorem test_load_completion_states :
    let src : LoadSrc := { desc := sparse, tile := 0, piece := 0 }
    let s := loading (.weights 1 src)
    let p := loading (.preload 1 { addr := 0x1000, bcast := true, int := false })
    let q := loading (.predict 0 0x1000 0x2000 0x55 3)
    tilePending s 0 sparse 0 ((s.core 0).run 0).step = false ∧
    (match loadBank s 0 src .clean with | (.bank _, s1) => s1.fenceDue.isEmpty | _ => false) = true ∧
    dataOf (p.readCk 0 0x1000 128 .clean) = some (List.replicate 128 0) ∧
    dataOf (q.readCk 0 0x2000 16 .clean) = some (List.replicate 16 0) ∧
    (∀ x ∈ [s, p, q], (next? (exec (.tileLoadComplete 0 .clean) x)).map (fun t => (t.core 0).loadPath) = some []) := by
  decide +kernel

/-- A drain of tile 0 that has issued. -/
def drain0 (d : FXD) : Drain :=
  { ctx := 0, sb := 2, task := 0, opId := 0, o := d, ra := 0x4000, rs := 0, rx := 0, td := none, tile := 0, key := {}, pc := 0 }

/-- The queue of oneEntry, its entry taken by tile 0. -/
def takenEntry : Queue := { oneEntry with ring := [{ pos := 0x1000, src := 0, st := .taken, task := 0, tile := some 0, flushed := false }] }

theorem test_drain_event_states :
    let x : Tile := { st := .opened, drain := some (drain0 (oDrn 0 0)) }
    let s := idleCore fun c => { c with ta := x }
    let o := idleCore fun c => { c with ta := { x with ovf := true } }
    let r := idleCore fun c => { c with ta := { x with st := .replaying, ovf := true } }
    let d := idleCore fun c => { c with ta := { x with st := .draining }, queues := [(1, takenEntry)] }
    drainReady s 0 0 0 (drain0 (oDrn 0 0)) = true ∧ drainReady o 0 0 0 (drain0 (oDrn 0 0)) = true ∧
    sliceBase 0 ≤ 0x4000 ∧ 0x4000 + targetLen 0 32 ≤ sliceBase 0 + sliceSize ∧
    (match replayPasses 0 0 0 (drain0 (oDrn 0 0)) 3 ((r.core 0).tile 0) r with
      | (.ok y, s1) => decide (y.replays = 1) && (match restoreBanks 0 0 s1 with
        | (.ok (), s2) => s2.fenceDue.isEmpty && s2.injected.isEmpty
        | _ => false)
      | _ => false) = true ∧
    (next? (exec (.drainStart 0 0) s)).map (fun t => (t.core 0).ta.st) = some .draining ∧
    (next? (exec (.drainStart 0 0) o)).map (fun t => (t.core 0).ta.st) = some .replaying ∧
    (next? (exec (.overflowReplay 0 0) r)).map (fun t => ((t.core 0).ta.st, (t.core 0).ta.sx)) = some (.draining, -4) ∧
    (next? (exec (.drainComplete 0 0) d)).map (fun t => ((t.core 0).ta.st, ((t.core 0).queue 1).ring)) = some (.empty, []) := by
  decide +kernel

theorem test_predicted_open_state :
    let o : FXM := { oMul with t := 0, pd := 1 }
    let s := ready (.mxMul (at_ 0) o) [(2, 5)] fun c => { c with prdFbStep := 4, queues := [(1, oneEntry)] }
    decode 0 ((s.core 0).word 0) = some (.mxMul (at_ 0) o) ∧ (s.core 0).prdFbStep = ((s.core 0).thread 0).reg 2 - 1 ∧
    (next? (exec (.predictedTileOpen 0 0) s)).map (fun t => (t.core 0).ta.st) = some .opened := by decide +kernel

/-- A queue with an open request of two entries, none of them fetched. -/
def oneRequest (fetched : Nat) (ring : List QEntry) : Queue :=
  { cfg := 0x0004000010000001, ring, reqs := [{ ctx := 0, sb := 2, task := 0, pc := 0, phase := 0, step := 0, src := 0x10000, count := 1
                                                stride := 64, deadline := 5, fetched, present := 0, own := 0 }] }

theorem test_stream_unit_states :
    let s := idleCore fun c => { c with queues := [(1, oneRequest 0 [])] }
    let e : QEntry := { pos := 0x1000, src := 0x10000, st := .fetching, task := 0, tile := none, flushed := false }
    let q := idleCore fun c => { c with queues := [(1, oneRequest 1 [e])] }
    chooseQueue (s.island 0) (s.core 0) 0xFFFF = some 1 ∧ ((s.core 0).queue 1).fetchable.isSome = true ∧
    dataOf (q.readCk 0 0x10000 ((q.core 0).queue 1).esize .clean) = some (List.replicate 64 0) ∧
    (next? (exec (.streamEntryFetch ⟨0, 0xFFFF⟩) s)).map (fun t => (((t.core 0).queue 1).ring.map QEntry.pos)) = some [0x1000] ∧
    (next? (exec (.streamEntryPresent 0 1 .clean) q)).isSome = true := by decide +kernel

theorem test_dma_states :
    let d (own : Nat) : List Byte := leBytes 8 0x10000 ++ leBytes 8 0x20000 ++ leBytes 4 64 ++ List.replicate 36 0 ++ leBytes 8 (own * 2 ^ 63)
    let run (own : Nat) : State := { idleCore id with
      mem := Memory.write (Memory.write [] 0x10040 (d own)) 0x10000 [7, 8]
      islands := [(0, { tested := 0xFFFF, chans := [(2, { st := .ready, next := 0x10040 })], readyOrder := [2] })] }
    let go : State := { idleCore id with islands := [(0, { tested := 0xFFFF, chans := [(2, { st := .idle }), (3, { st := .running })] })] }
    ((run 1).island 0).serve.isSome = true ∧ dataOf ((run 1).readCk 0 0x10040 64 .clean) = some (d 1) ∧
    (DmaDesc.ofBytes (d 0)).own = false ∧ (DmaDesc.ofBytes (d 1)).own = true ∧ (DmaDesc.ofBytes (d 1)).op ≠ 2 ∧
    (dmaOp (run 1) 0 none (DmaDesc.ofBytes (d 1)) .clean).code = 0 ∧
    (next? (exec (.dmaDescriptor 0 .clean) (run 1))).map (fun t => (Memory.read t.mem 0x20000 2, ((t.island 0).chan 2).ending)) =
      some ([7, 8], 2) ∧
    (next? (exec (.dmaDescriptor 0 .clean) (run 0))).map (fun t => ((t.island 0).chan 2).ending) = some 1 ∧
    go.allotOfIsland 0 = some 0 ∧
    (next? (exec (.dmaChGo (.os 0) 0 3) go)).map (fun t => ((t.island 0).chan 3).goLost) = some true := by decide +kernel

/-! Reduction, verdict and update. -/

theorem test_report_states :
    let u : UpAcc := { src := 0x4000, srcScale := 0x5000, sx := none, dst := 0x50000, dstScale := 0x50800, blk := 0, rows := 1
                       init := true, last := true, probe := false, step := 0 }
    let s : State := flying (.upAcc u)
    let r : State := { idleCore id with spines := [(0, { reports := [{ core := 0, step := 0, probe := false, nf := true, q := 0x3F800000 }]
                                                         marksIn := [(0, 0)] })] }
    bufferPending s 0 u.dst = false ∧ (applyUpAcc s 0 0 u .clean).cause = none ∧
    (next? (exec (.upAccApply 0 0 2 .clean) s)).map (fun t => (t.spine 0).reports.length) = some 1 ∧
    (next? (exec (.reductionReport 0 0) r)).map (fun t => ((t.spine 0).nf, (t.spine 0).reports)) = some (1, []) ∧
    (next? (exec (.endOfReductionMark 0 0) r)).map (fun t => (t.spine 0).endMarks) = some [0] := by decide +kernel

theorem test_verdict_state :
    let s : State := { idleCore id with
      packages := [(0, { grpBase := 0x010000000000 })]
      spines := [(0, { st := .loaded, plan := some plan0, step := 4, endMarks := [0], boundaryOf := some 3, lastVerdict := some 3 })] }
    uninjected s = true ∧ (s.port 0).ideInsecure = 0 ∧ s.planishers 0 = [0] ∧
    (∀ n ∈ s.planishers 0, s.inPackage n (groupAddr (s.pkg n).grpBase 0) 0x50000 = true ∧
      s.poisoned (groupAddr (s.pkg n).grpBase 0) 0x50000 = false) ∧
    s.record 0 = some rec0 ∧ verdictReady s 0 plan0 = true ∧
    (next? (exec (.verdict 0) s)).map (fun t => ((t.spine 0).step, (t.spine 0).lastVerdict, (t.core 0).prdFbStep)) =
      some (5, some 4, 4) := by decide +kernel

/-- A decision of each outcome and cause. -/
theorem test_decisions :
    ((decideVerdict Val.one 1 1 0 0).cause, (decideVerdict .nan 2 0 0 0).cause, (decideVerdict Val.one 2 0 0 0).cause,
      (decideVerdict Val.one 2 0 0x7F800000 0).outcome, (decideVerdict Val.one 2 0 0x7F800000 0x7F800000).outcome) =
      (1, 4, 2, 1, 0) := by decide +kernel

/-- SGD and Lion on one slot: momentum 1/2, no decay, a rate of 1. -/
theorem test_sgd_and_lion :
    let g (rule : Nat) : GroupEnt := { rule, lrCurve := 0, biasCorr := false, lrBase := 0x3F800000, beta1 := 0x3F000000
                                       beta2 := 0, eps := 0, lambda := 0, trMax := 0, assayPeriod := 0 }
    let x : Slot3 := { w := Val.ofInt 4, m1 := Val.ofInt 2, m2 := Val.zero }
    let par (rule : Nat) : RulePar := { g := g rule, eta := Val.one, b1 := Val.one, b2 := Val.one, tr := Val.one }
    let a := (applyRule (par 0) x (Val.ofInt 1)).1
    let b := (applyRule (par 3) x (Val.ofInt 1)).1
    (bits32 a.w, bits32 a.m1, bits32 b.w, bits32 b.m1) = (0x40000000, 0x40000000, 0x40400000, 0x3FC00000) := by decide +kernel

/-- Allotment 0 in the update phase, its Planisher holding the verdict of step 0. -/
def updating (x : Package) (f : Spine → Spine) : State :=
  { idleCore id with
    packages := [(0, x)]
    spines := [(0, f { st := .loaded, plan := some plan1, step := 1, lastVerdict := some 0, trDone := false })] }

def msg0 : VerdictMsg := { step := 0, outcome := 2, factor := 0, ls := 0, lsNext := 0, sweep := 0 }

/-- The group table with group 0 under rule 0. -/
def withGroup (s : State) : State := { s with mem := Memory.write s.mem 0x010000000000 (List.replicate 64 0) }

theorem test_update_states :
    let base : Word := 0x010000000000
    let s := updating { grpBase := base, msg := some { msg0 with outcome := 0 }, todo := [0], pass := .update } id
    let c := updating { grpBase := base, msg := some msg0, todo := [0], pass := .clear } id
    let g : GroupEnt := { rule := 2, lrCurve := 0, biasCorr := false, lrBase := 0, beta1 := 0, beta2 := 0, eps := 0, lambda := 0
                          trMax := 0, assayPeriod := 0 }
    let t := updating { grpBase := base, msg := some msg0 } fun sp => { sp with plan := some { plan1 with groups := [(3, g)] } }
    let e := updating { msg := some msg0 } fun sp => { sp with trDone := true }
    s.allotOfPkg 0 = some 0 ∧ (match updateTile s 0 0 plan1 0 upd0 { msg0 with outcome := 0 } .clean with
      | .ok s1 => (s1.fenceDue.isEmpty && (s1.pkg 0).todo = [0] && (s1.pkg 0).pass = .update) | _ => false) = true ∧
    upd0.bufAddr.addr plan1.sites + 2080 ≤ sramEnd ∧ (c.resolveRange 0 (upd0.bufAddr.addr plan1.sites) 2080 true).isSome = true ∧
    uninjected c = true ∧ uninjected t = true ∧ t.planishers 0 = [0] ∧ t.inPackage 0 (runtimeAddr base 3 + 8) 4 = true ∧
    (next? (exec (.clearPass 0) c)).map (fun t => (t.pkg 0).pass) = some .none ∧
    (next? (exec (.trustRatio 0) t)).map (fun t => (t.spine 0).trDone) = some true ∧
    (next? (exec (.planisherUpdateCompletion 0) e)).map (fun t => ((t.spine 0).updDone, (t.spine 0).updEnded)) = some ([0], true) := by
  decide +kernel

/-! Mask evolution. -/

/-- Vetch of island 0 with tile 0 pending at step 2, and the candidate list of the tile in memory. -/
def evolving (hdr : List Byte) (v : Vetch) (pl : Plan) : State :=
  { updating {} id with
    mem := Memory.write [] 0x010000900000 hdr
    spines := [(0, { st := .loaded, plan := some pl })]
    islands := [(0, { tested := 0xFFFF, vetch := v })] }

def pending0 : Vetch := { pendingTiles := [0], phaseOn := true, step := 2 }

/-- One candidate, 1.5 at position 33. -/
def list0 : List Byte := listBytes 1 0 true 0 [{ pos := 33, mag := Val.one, s := 0, h := 0x3E00 }]

theorem test_capture_complete_state :
    let s : State := { evolving [] { captures := [{ site := 0, ctx := 0, sb := 2, opId := 0, work := 0, valueAddr := 0x8000
                                                    scaleAddr := 0x7000, step := 0 }] } plan1 with
      cores := (flying .capture).cores
      mem := (List.range 256).map fun i => (0x30000 + i, 0xFF) }
    let r := next? (exec (.captureComplete 0 .clean) s)
    readable s 0 0x30000 256 = true ∧ readable s 0 0x8000 4096 = true ∧ readable s 0 0x7000 64 = true ∧
    r.map (fun t => ((t.island 0).vetch.captures, (t.island 0).vetch.captured, (t.core 0).inflight)) = some ([], [(0, 0)], []) := by
  decide +kernel

theorem test_evolve_states :
    let flat : Plan := { plan1 with layers := [(0, { layer0 with level := 8 })] }
    let n := evolving [] pending0 plan1
    let f := evolving [] pending0 flat
    (readable n 0 0x30000 256 = true ∧ readable n 0 0x20000 2048 = true ∧ readable n 0 0x010000900000 16 = true ∧
      layer0.blockBase.addr plan1.sites = 0) ∧
    evolves 8 = false ∧ (candHeader (List.replicate 16 0)).usable work0 layer0 2 = false ∧
    (next? (exec (.vetchTileEvolve 0 .clean) f)).map (fun t => ((t.island 0).vetch.pendingTiles, FMap.getD (t.island 0).vetch.cnts 6 0)) =
      some ([], 1) ∧
    (next? (exec (.vetchTileEvolve 0 .clean) n)).map (fun t => ((t.island 0).vetch.pendingTiles, FMap.getD (t.island 0).vetch.cnts 5 0)) =
      some ([], 1) := by decide +kernel

theorem test_change_list_is_sent :
    let s := evolving list0 pending0 plan1
    let r := next? (exec (.vetchTileEvolve 0 .clean) s)
    readable s 0 0x010000900010 8 = true ∧ (candHeader (slice list0 0 16)).count = 1 ∧
    (candHeader (slice list0 0 16)).usable work0 layer0 2 = true ∧ (updateOf plan1 work0).map Prod.fst = some 0 ∧
    r.map (fun t => (t.island 0).vetch.stage) = some .sent ∧
    r.map (fun t => (t.pkg 0).changes.map fun x => x.2.grown) = some [[(1, 0, 0x3E00)]] := by decide +kernel

/-- The change list comes back with the working copy, and Vetch writes the tile. -/
theorem test_change_list_and_write :
    let cl : ChangeList := { tile := 0, moved := [], retired := [], grown := [(1, 0, 0x3E00)], ls := 0 }
    let e : Evolve := { work := 0, masks := [(0, 0x20)], freed := [], changes := cl, copies := [] }
    let s : State := { evolving list0 { pending0 with stage := .sent, evolving := some e } plan1 with
      packages := [(0, { grpBase := 0x010000000000, changes := [(0, cl)] })] }
    let r := next? (exec (.changeList 0 .clean) s)
    let w := (r.bind fun t => next? (exec (.vetchTileWrite 0) t))
    r.map (fun t => ((t.pkg 0).changes, (t.island 0).vetch.stage)) = some ([], .returned) ∧
    w.map (fun t => ((t.island 0).vetch.stage, (t.island 0).vetch.pendingTiles, Memory.read t.mem 0x30000 1)) =
      some (.idle, [], [0x20]) := by decide +kernel

/-! Steps, cuts, marks and ingest. -/

def ck0 : CkptSec :=
  { firstCut := 0, period := 1, replayMax := 3, hw := 8, ringBase := 0x010000400000, ringLen := 0x10000, undoLen := 0x100000
    ingotOff := 0x10000000, ingotLen := 0x1000000, exclusions := [], frozen := [] }

/-- A plan with cuts, a class of samples and the bounds of its core. -/
def plan2 : Plan :=
  { plan0 with
    ckpt := some ck0
    stream := { plan0.stream with classes := [{ maxLen := 64, home := 0, sigSlot := 0, en := true, bufOff := 0x4000
                                                slotStride := 64, bankStride := 0x1000 }] }
    img := { plan0.img with sections := [{ layout := 0xFF, core := 0xFFFF, crcOk := true, body := .bound {
      ringBase := .rel 0 0x2000, ringK := 4, bounds := [100], curves := [], plnBounds := [], ingestBound := 100
      point := plan0.point, curveBlockOk := true } }] } }

/-- Allotment 0 with a plan, f being what else its spine holds. -/
def spined (pl : Plan) (f : Spine → Spine) : State :=
  { idleCore id with spines := [(0, f { st := .loaded, plan := some pl })] }

def cut0 : Cut := { step := 2, epoch := 1, layout := 0, ls := 0, clean := 0, fb := [0, 0, 0, 0], window := 0, ringPos := 0, slot := 0 }

theorem test_boundary_states :
    let g (ig : Ingot) (sp : Spine) : Spine := { sp with lastVerdict := some 3, boundaryOf := some 2, updEnded := true, ingot := ig }
    let s := spined plan2 (g {})
    let e := spined plan2 (g { exporting := true })
    let n := spined plan0 (g {})
    let b (s : State) := next? (exec (.stepBoundary 0) s)
    uninjected s = true ∧ (s.spine 0).openStep = 3 ∧ maskStep plan2 3 = false ∧ cutDue s rec0 ck0 (s.spine 0).ingot 3 = true ∧
    (b s).map (fun t => ((t.spine 0).boundaryOf, (t.spine 0).ingot.cutting, (t.island 0).marks)) = some (some 3, true, [.boundary 3]) ∧
    (b e).map (fun t => ((t.spine 0).ingot.skipped, (t.spine 0).ingot.cutting)) = some (1, false) ∧
    (b n).map (fun t => (t.spine 0).ingot.fenceReady) = some [] := by decide +kernel

theorem test_cut_states :
    let s := spined plan2 fun sp => { sp with ingot := { taking := some cut0, cutting := true } }
    let u := spined plan2 fun sp => { sp with ingot := { cut := some cut0, none_ := false } }
    (match copyCut 0 rec0 plan2 ck0 cut0 s with | (.ok (), s1) => s1.fenceDue.isEmpty | _ => false) = true ∧ (∀ n ∈ rec0.pkgs, s.pkgOk n = true) ∧
    (next? (exec (.cutConsistent 0) s)).map (fun t => (t.spine 0).ingot.cutStep) = some 2 ∧
    region (0x010000300 * 4096) = .lpddr 0 ∧ (excludedOf rec0 plan2 ck0 (u.spine 0)).page 0x010000300 = false ∧
    (next? (exec (.pageUndoCopy 0 0x010000300) u)).map (fun t => (t.spine 0).ingot.undo.pages) = some [(0x010000300, [], [])] := by
  decide +kernel

theorem test_planned_fence_states :
    let s := spined plan0 fun sp => { sp with ingot := { fenceReady := [0] } }
    let c := spined plan2 fun sp => { sp with ingot := { fenceReady := [0], cut := some cut0, none_ := false } }
    (next? (exec (.plannedFence 0) s)).map (fun t => ((t.spine 0).st, (t.spine 0).stopReason, (t.island 0).sliceFence.getLsbD 0)) =
      some (.stopped, 0x10, true) ∧
    (next? (exec (.plannedFence 0) c)).map (fun t => (t.island 0).sliceFence.getLsbD 0) = some true := by decide +kernel

theorem test_mark_states :
    let m (x : Mark) : State := { idleCore (fun c => { c with runs := [] }) with islands := [(0, { tested := 0xFFFF, marks := [x] })] }
    let a := m .planStart
    let n := m (.step 4)
    (∀ x ∈ a.boundCores 0, ∀ j, j < 32 → ((a.core x).run j).pending = none ∧ ((a.core x).run j).restart = none) ∧
    a.boundCores 0 = [0] ∧
    (next? (exec (.planStartMark 0) a)).map (fun t => ((t.island 0).origins, ((t.core 0).run 0).pending)) = some ([(0, 0)], none) ∧
    (next? (exec (.replayStartMark 0) (m (.replayStart 4)))).map (fun t => (t.island 0).origins) = some [(4, 0)] ∧
    (next? (exec (.stepMark 0) n)).map (fun t => (t.island 0).marks) = some [] ∧
    (next? (exec (.stepMark 0) n)).map (fun t => ((t.core 0).run 0).pending) = some (some 4) ∧
    (next? (exec (.boundaryMark 0) (m (.boundary 4)))).map (fun t => (t.island 0).origins) = some [(5, 0)] := by decide +kernel

theorem test_phase_record_states :
    let a : PhaseAcc := { step := 3, phase := 0, start := 20, stop := 150, ended := true }
    let s : State := { idleCore (fun c => { c with phases := [a], runs := [], phaseRing := 0x1000000000002000 }) with
      spines := [(0, { st := .loaded, plan := some plan2, ingest := { phases := [a], origins := [(3, 10)] } })]
      islands := [(0, { tested := 0xFFFF, origins := [(3, 10)] })]
      packages := [(0, { phases := [a], origins := [(3, 10)], ring := 0x1000010000500000 })] }
    let r (x ph : Nat) := next? (exec (.phaseTimeRecordWrite x ph) s)
    (plan2.img.boundSec 0 0).isSome = true ∧ ((s.core 0).phases.find? fun a => (s.core 0).phaseOver a).isSome = true ∧
    (r 0 0).map (fun t => ((t.core 0).head, (t.core 0).misses, Memory.read t.mem 0x2000 9)) = some (1, 1, [3, 0, 0, 0, 0, 0, 0, 0, 10]) ∧
    (r 576 5).map (fun t => ((t.pkg 0).ringHead, Memory.read t.mem 0x010000500000 1)) = some (1, [3]) ∧
    (r 588 0).map (fun t => ((t.spine 0).ingest.phaseHead, Memory.read t.mem plan2.stream.hdr.phBase 1)) = some (1, [3]) := by
  decide +kernel

/-- Port 0 with a ring of samples that holds the bytes l. -/
def ringed (pl : Plan) (l : List Byte) (f : Spine → Spine) : State :=
  { spined pl f with
    hostMem := Memory.write [] 0x20000 l
    ports := [(0, { rate := 4, width := 16, flit := true, win := [(0, 0x7)], ingEn := true, ingBase := 0x100000020000, ingProd := 40 })] }

def sample (cls : Nat) (pl : List Byte) (stamp : Nat) : List Byte :=
  leBytes 4 pl.length ++ leBytes 1 cls ++ [0, 0, 0] ++ leBytes 8 stamp ++ leBytes 8 0 ++ leBytes 4 (crc32c pl).toNat ++ leBytes 4 0 ++ pl

theorem test_ingest_states :
    let s := ringed plan2 (sample 0 [1, 2, 3, 4, 5, 6, 7, 8] 0) id
    let x := ringed plan2 (sample 3 [1, 2, 3, 4, 5, 6, 7, 8] 0) id
    uninjected s = true ∧ liveIngest s 0 = true ∧ 40 ≤ (s.port 0).avail 0 ∧
    rejectReason plan2 (s.spine 0).ingest 0x10000 (sampleHdr (sample 0 [1, 2, 3, 4, 5, 6, 7, 8] 0)) = none ∧
    rejectReason plan2 (x.spine 0).ingest 0x10000 (sampleHdr (sample 3 [1, 2, 3, 4, 5, 6, 7, 8] 0)) = some 2 ∧
    ringFits (s.spine 0).ingot ck0 256 = true ∧
    (next? (exec (.ingestRecord 0) s)).map (fun t => ((t.spine 0).ingest.step, (t.port 0).ingCons, Memory.read t.mem 0x4000 8)) =
      some (1, 40, [1, 2, 3, 4, 5, 6, 7, 8]) ∧
    (next? (exec (.ingestRecord 0) x)).map (fun t => ((t.spine 0).ingest.cntRejected, (t.port 0).ingCons)) = some (1, 40) := by
  decide +kernel

theorem test_close_and_replay_states :
    let win : Plan := { plan2 with stream := { plan2.stream with hdr := { plan2.stream.hdr with window := true } } }
    let c (pl : Plan) : State := ringed pl (sample 0xFF [] 5) id
    let p : State := spined plan2 fun sp => { sp with
      ingest := { replaying := true }, ingot := { fromRing := [{ off := 0, len := 64, step := 0, kind := 2 }] } }
    (sampleHdr (sample 0xFF [] 5)).close = true ∧
    (next? (exec (.closeRecord 0) (c plan2))).map (fun t => (t.port 0).ingCons) = some 32 ∧
    (next? (exec (.closeRecord 0) (c win))).map (fun t => (t.spine 0).ingest.window) = some 6 ∧
    bankWait (p.spine 0).ingest = false ∧
    (next? (exec (.ingestRecord 0) p)).map (fun t => ((t.spine 0).ingot.fromRing, (t.spine 0).ingest.replaying)) = some ([], false) := by
  decide +kernel

theorem test_open_batch_state :
    let two : Plan := { plan2 with stream := { plan2.stream with hdr := { plan2.stream.hdr with batch := 2 } } }
    (next? (exec (.ingestRecord 0) (ringed two (sample 0 [9, 8] 0) id))).map (fun t =>
      ((t.spine 0).ingest.taken, Memory.read t.mem 0x4000 2, t.signals.length)) = some (1, [9, 8], 1) := by decide +kernel

/-! Host queues and registers. -/

/-- The bytes of a command with identifier 0x11. -/
def cmdBytes (op : Nat) (l : List Nat) : List Byte := leBytes 1 op ++ [0] ++ leBytes 2 0x11 ++ leBytes 4 0 ++ l.flatMap (leBytes 8)

/-- Port 0 with queue 0 enabled in host memory and one command waiting; f is what else the module holds. -/
def served (op : Nat) (l : List Nat) (f : State → State) : State :=
  let s := f (idleCore id)
  { s with
    hostMem := Memory.write s.hostMem 0 (cmdBytes op l)
    ports := [(0, { rate := 4, width := 16, flit := true, win := [(0, 0x7)]
                    qs := [(0, { sqCfg := 0x100000000001, cqCfg := 0x100000001001, tail := 1 })] })] }

/-- The status in the completion of command 0x11, behind the events that came before it. -/
def statusOf (o : Outcome State Fault Refusal) : Option (List Byte) := (next? o).bind fun t =>
  ([0x1000, 0x1040, 0x1080].find? fun a => Memory.read t.hostMem a 2 = [0x11, 0]).map fun a => Memory.read t.hostMem (a + 4) 2

/-- Allotment 0 with another spine. -/
def onSpine (x : Spine) (s : State) : State := { s with spines := [(0, x)] }

theorem test_completion_states :
    let s := served 8 [] id
    let f : State := { s with ports := [(0, { s.port 0 with win := [] })] }
    let c : Completion := { cid := 1, sq := 0, event := false, coalesced := false, status := 0, kind := 0, step := 0, payload := [] }
    ((s.port 0).qp 0).full = false ∧ (s.pushCompletion 0 0 c).2 = .written ∧ (f.pushCompletion 0 0 c).2 = .faulted ∧
    (((s.pushCompletion 0 0 c).1.port 0).qp 0).cqTail = 1 % ringEntries ((s.port 0).qp 0).cqCfg := by decide +kernel

theorem test_served_commands :
    let loaded : Spine := { st := .loaded, plan := some plan2, step := 4 }
    let cut : Spine := { loaded with ingot := { cut := some cut0, none_ := false, cutStep := 2 } }
    let s := served 8 [] (onSpine loaded)
    uninjected s = true ∧ ((s.port 0).served = some 0 ∧ (s.hostRead 0 (ringAddr ((s.port 0).qp 0).sqCfg ((s.port 0).qp 0).sqHead) 64).isSome = true) ∧
    statusOf (exec (.query 0 0) s) = some [0, 0] ∧
    statusOf (exec (.wallMark 0 0) (served 7 [55, 0] (onSpine loaded))) = some [0, 0] ∧
    statusOf (exec (.unload 0 0) (served 2 [] (onSpine loaded))) = some [0, 0] ∧
    statusOf (exec (.stop 0 0) (served 3 [] (onSpine loaded))) = some [0, 0] ∧
    statusOf (exec (.resume 0 0) (served 4 [] (onSpine { cut with st := .stopped, stopReason := 0x18 }))) = some [0x12, 0] ∧
    (next? (exec (.exportCut 0 0) (served 5 [0x100000040000] (onSpine cut)))).map (fun t => (t.spine 0).ingot.expCmd) =
      some (some (0x11, 0)) := by decide +kernel

theorem test_export_states :
    let ck : CkptSec := { ck0 with ringLen := 64 }
    let pl : Plan := { plan0 with ckpt := some ck }
    let x : Spine := { st := .loaded, plan := some pl, step := 4
                       ingot := { cut := some cut0, none_ := false, exporting := true, expAddr := 0x100000040000 } }
    let s := served 0 [] fun s => { onSpine x s with packages := [(0, { grpBase := 0x010000800000 })] }
    let e := served 0 [] (onSpine { x with ingot := { x.ingot with exporting := false, expCmd := some (0x11, 0) } })
    (s.spine 0).exportPlan = some pl ∧ (exportAreas (cutMemory s 0 rec0 pl ck) rec0 pl ck cut0).findSome? (areaStop (cutMemory s 0 rec0 pl ck) 0) = none ∧
    (next? (exec (.exportEnd 0) s)).map (fun t => ((t.spine 0).ingot.exporting, (t.spine 0).ingot.expStatus)) = some (false, 1) ∧
    (next? (exec (.exportEnd 0) e)).map (fun t => (t.spine 0).ingot.expCmd) = some none := by decide +kernel

/-- n bytes that begin with l. -/
def padTo (n : Nat) (l : List Byte) : List Byte := l ++ List.replicate (n - l.length) 0

/-- The sections of an image of one core with one task of one context, its ring of cuts and a class of samples: type,
bytes, their CRC-32C, and what the bytes do not say. -/
def sections0 : List (Nat × List Byte × Nat × SecPlace) :=
  [(1, [], 0, .layout { cores := 1, packages := [0], privileged := [], digest := 0, stash := [] }),
   (2, leBytes 8 ((encode (.ctlHalt (at_ 0) oZ)).getD 0).toNat, 0x733F748E, .none),
   (3, [], 0, .wheel { entries := [0], segments := [(0, 1)], wdogLog2 := 30 }),
   (4, [], 0, .task [{ arg := .rel 0 0x1000, entryPc := 0, firstCtx := 0, ctxCount := 1, phase := 1, trigger := 0, trigSlot := 0
                       trigCount := 0, retryLimit := 0, idem := false, doneEn := false, doneCore := 0, doneSlot := 0, vmask := 0
                       scratch := none }]),
   (6, padTo 32 [0, 85, 10, 0, 0, 0, 0, 0, 0, 0, 255], 0x885CF1D9, .bound {
      ringBase := .rel 0 0x2000, ringK := 4, bounds := [100, 100, 100, 100, 100, 100], plnBounds := [], ingestBound := 100 }),
   (9, padTo 64 ([0, 0, 1, 0, 1, 1, 0, 0] ++ leBytes 8 0 ++ leBytes 8 1 ++ leBytes 8 0 ++ leBytes 4 0x3000 ++ [4, 4, 0, 0] ++
      leBytes 8 0x010000100000 ++ leBytes 8 0x010000200000) ++
      padTo 32 (leBytes 4 64 ++ [0, 0, 0, 1] ++ leBytes 4 0x4000 ++ leBytes 4 64 ++ leBytes 4 0x1000), 0x49AFD71B, .stream [] []),
   (11, padTo 64 (leBytes 8 0 ++ leBytes 4 1 ++ [3, 8, 0, 0] ++ leBytes 8 0x010000400000 ++ leBytes 8 0x10000 ++
      leBytes 8 0x100000 ++ leBytes 8 0x10000000 ++ leBytes 8 0x1000000), 0x8D56E0A4, .none)]

/-- The directory entries of sections that begin at an offset. -/
def entriesFrom : Nat → List (Nat × List Byte × Nat × SecPlace) → List Byte
  | _, [] => []
  | a, (typ, l, crc, _) :: t =>
    leBytes 2 typ ++ leBytes 2 0xFF ++ leBytes 4 0xFFFF ++ leBytes 8 a ++ leBytes 8 l.length ++ leBytes 8 crc ++
      entriesFrom (a + l.length) t

/-- A header of 64 bytes with an image's length, its number of sections and its two checksums (R67). -/
def imageHeader (length sections crc0 crc1 : Nat) : List Byte :=
  leBytes 4 0x4C504255 ++ [1, 0, 0x20, 0] ++ leBytes 8 length ++ leBytes 4 sections ++ [1, 0, 0, 0] ++ leBytes 8 7 ++
    leBytes 8 1 ++ leBytes 8 64 ++ leBytes 4 crc0 ++ leBytes 4 crc1 ++ leBytes 8 0

/-- The image: header, directory and sections (R67, R68). -/
def imageBytes : List Byte :=
  imageHeader 488 7 0xE5D94F63 0x8C53E8CC ++ entriesFrom 288 sections0 ++ sections0.flatMap fun x => x.2.1

def places0 : ImagePlace := sections0.map fun x => x.2.2.2

/-- The module ready to load a plan: started, allotment 0 IDLE, the image in host memory. -/
def bindable (op : Nat) (l : List Nat) (image x : List Byte) : State :=
  served op l fun s => { onSpine { st := .idle } s with
    cores := [], boot := { ready := true }
    hostMem := Memory.write (Memory.write s.hostMem 0x10000 image) 0x2000 x }

theorem test_load_plan_states :
    let s := bindable 1 [0x100000010000, 488] imageBytes []
    uninjected s = true ∧ ((s.taken 0 0).readImage 0 0x100000010000 488 places0).isSome = true ∧
    statusOf (exec (.loadPlan 0 0 places0) s) = some [0, 0] := by decide +kernel

/-- Images of a header alone: another magic, and a checksum that does not hold. -/
theorem test_rejected_images :
    let s (l : List Byte) : State := bindable 1 [0x100000010000, 64] l []
    let l := imageHeader 64 0 0 0
    (s l).startBarred = false ∧ ((s l).taken 0 0).readImage 0 0x100000010000 64 [] = some (parseImage l []) ∧
    statusOf (exec (.loadPlan 0 0 []) (s (0 :: l.drop 1))) = some [1, 0] ∧
    statusOf (exec (.loadPlan 0 0 []) (s l)) = some [2, 0] := by
  decide +kernel

theorem test_restart_state :
    let exp (k : Nat) (d : List Byte) : List Byte := ExpRec.bytes { kind := k, index := 0, data := d }
    let x := exp 0 (List.replicate 128 0) ++ exp 5 []
    let s := bindable 6 [0x100000010000, 488, 0x100000002000] imageBytes x
    ((parseExport (s.taken 0 0) 0 (mostRecords (parseImage imageBytes places0)) 0x100000002000).toOption.map fun l =>
      l.map ExpRec.kind) = some [0, 5] ∧
    statusOf (exec (.restart 0 0 places0) s) = some [0, 0] := by decide +kernel

/-- RESUME of a stopped allotment with a loaded plan and a cut of step 2: it continues at step 3 and replays. -/
theorem test_resume_continues :
    let s := bindable 4 [] [] []
    let u := loadPlan s 0 (parseImage imageBytes places0) .planStart
    let r : Option State := (match u.1 with | .ok _ => some u.2 | .error _ => none).bind fun (t : State) =>
      let cutting := t.modSpine 0 fun sp => { sp with ingot := { sp.ingot with taking := some cut0, cutting := true } }
      (next? (exec (.cutConsistent 0) cutting)).bind fun v =>
        next? (exec (.resume 0 0) (v.modSpine 0 fun sp => { sp with st := .stopped, stopReason := 0x18 }))
    (r.map fun t => ((t.spine 0).st, (t.spine 0).step, (t.spine 0).ingot.replaying)) = some (.loaded, 3, true) ∧
    (r.bind fun t => statusOf (.next t)) = some [0, 0] := by decide +kernel

/-- STOP with a cut of step 2: the page that its undo log holds has its prior contents again, and step 3 opens next. -/
theorem test_stop_at_cut :
    let x : Spine := { st := .loaded, plan := some plan2, step := 7
                       ingot := { cut := some cut0, none_ := false, cutStep := 2
                                  undo := { pages := [(0x010020000000 / 4096, [(0x010020000000, 9)], [])] } } }
    let s := served 3 [] fun s => { onSpine x s with mem := Memory.write s.mem 0x010020000000 [1, 2] }
    ((((s.taken 0 0).quiesce 0).windDownAll 0).haltCut 0).isSome = true ∧
    (next? (exec (.stop 0 0) s)).map (fun t => ((t.spine 0).st, (t.spine 0).step, Memory.read t.mem 0x010020000000 2,
      (t.spine 0).ingot.undo)) = some (.stopped, 3, [9, 0], {}) := by decide +kernel

/-- A register with its fields apart, and each access code on some field. -/
theorem test_access_code_state :
    let f (hi lo : Nat) (a : Acc) : Field := { hi := hi, lo := lo, acc := a, live := false }
    let l := [f 3 0 .rw, f 7 4 .rwl, f 11 8 .w1c, f 15 12 .ro, f 19 16 .wo, f 23 20 .rc, f 40 24 .rw]
    (∀ g ∈ l, g.lo ≤ g.hi ∧ g.hi < 64) ∧ l.Pairwise (fun g h => g.hi < h.lo ∨ h.hi < g.lo) := by decide +kernel

theorem test_register_command_states :
    let s := served 8 [] (onSpine { st := .loaded, plan := some plan2 })
    let r := s.setPort 0 { s.port 0 with ingEn := true, ingProd := 40, ingCons := 40 }
    let x := s.setSpine 0 { s.spine 0 with ingot := { none_ := false, cut := some cut0 } }
    let held := idleCore fun c => { c with hold := true }
    let os := Requester.os 0
    (∀ b ∈ [Block.port 0, .spine, .hallmark, .core 0], s.reaches os b (if b = .hallmark then 0x10010 else 0x110) true = true ∧
      s.blockMet b = .open_) ∧ s.reaches (.host 0) (.port 0) 0x218 true = true ∧ s.linked (.host 0) 0x218 = true ∧ s.linked os 0x218 = true ∧
    s.reaches os .hallmark 0 false = true ∧ s.reaches os (.core 1) 0 true = true ∧ s.reaches os (.island 1) 0 true = false ∧
    (next? (exec (.sqTailDoorbell (.host 0) 0 0 8 0 3) s)).map (fun t => ((t.port 0).qp 0).tail) = some 3 ∧
    (next? (exec (.cqHeadWrite (.host 0) 0 1 8 0 3) s)).map (fun t => ((t.port 0).qp 1).cqHead) = some 3 ∧
    (next? (exec (.ingProdWrite (.host 0) 0 80) r)).map (fun t => ((t.port 0).ingProd, (t.port 0).prodErr)) = some (80, false) ∧
    (next? (exec (.ingProdWrite (.host 0) 0 1) r)).map (fun t => ((t.port 0).ingProd, (t.port 0).prodErr)) = some (40, true) ∧
    (next? (exec (.ingCfgWrite (.host 0) 0 8 0 0) r)).map (fun t => ((t.port 0).ingEn, (t.port 0).ingCons)) = some (false, 0) ∧
    (next? (exec (.ingotExpGo os 0 8 0 0x100000040001) x)).map (fun t => (t.spine 0).ingot.exporting) = some true ∧
    (next? (exec (.validatorRequest os 0 8 0 1) x)).map (fun t => ((t.spine 0).valBusy.isSome, (t.spine 0).valDone)) =
      some (true, false) ∧
    (next? (exec (.mbxWdogWrite os 0 8 0 1000) s)).map (fun t => (t.hm.mailbox 0).period) = some 1000 ∧
    (next? (exec (.tableWindowWrite os 0xF00000010010 8 7) held)).map (fun t => (t.core 0).word 2) = some 7 ∧
    (next? (exec (.tableWindowWrite os 0xF00000010010 8 7) s)).map (fun t => (t.core 0).word 2) = some 0 := by decide +kernel

theorem test_watchdog_latch :
    let s := (idleCore id).modMailbox 0 fun m => { m with period := 5 }
    (next? (exec (.osWatchdogExpiry 0) s)).map (fun t => (t.hm.alert, t.hm.hwQueue.map LogRec.kind)) = some (0x10, [9]) := by
  decide +kernel

theorem test_register_access_states :
    let s := idleCore id
    let held := idleCore fun c => { c with hold := true }
    let os := Requester.os 0
    blockAt 0xF00000000048 = some (.core 0, 0x48) ∧ (regAt (.core 0) 0x10).isSome = true ∧ sizeOk (.core 0) 0x80 8 = true ∧
    held.held (.core 0) = true ∧ s.held (.core 0) = false ∧
    (next? (exec (.registerWrite os 0xF00000000080 8 0x35) s)).map (fun t => (t.core 0).mxCfg) = some 0x31 ∧
    (next? (exec (.loaderAliasWrite os 0xF00000080080 8 0x35) held)).map (fun t => (t.core 0).mxCfg) = some 0x31 ∧
    (blockAt 0x100 = none ∧ (s.store 0 0x100 (leBytes 8 5)).any (fun s1 => s1.fenceDue.isEmpty) = true) ∧
    s.reaches os (.core 575) 0x80 true = false ∧
    (next? (exec (.rcRegisterRead os 0xF30000000000 8) { s with hm := { s.hm with netDrop := 9 } })).map (fun t => t.hm.netDrop) =
      some 0 := by decide +kernel

theorem test_window_states :
    let po : Port := { win := [(3, 0xABCDEF000000000B#64), (4, 0x7#64)] }
    translate po 2 (winBase 2 + 3 * 2 ^ 28 + 5) false = some (2 * 2 ^ 64 + 0xABCDEF0000000005) ∧
    translate po 2 (winBase 2 + 3 * 2 ^ 28 + 5) true = none ∧ interleaved.pkgs[1]? = some 3 := by decide +kernel

/-- Port 0 with queue 0 enabled, a plan loaded. -/
def hosted : State := served 8 [] (onSpine { st := .loaded, plan := some plan2 })

theorem test_aperture_and_request_states :
    let s := hosted
    let ing := s.setPort 0 { s.port 0 with ingEn := true }
    let rd : State := { s with cores := (flying (.load 7 0x100000000000 true)).cores }
    let faulted (q : HostReq) (s : State) := next? (exec (.hostRequestFault 0 q .timeout) s)
    ((s.port 0).rate ≠ 0 ∧ (s.port 0).ideInsecure = 0 ∧ liveIngest ing 0 = true ∧ uninjected rd = true) ∧
    (next? (exec (.hostApertureAccess 0 64 4 (some [1, 2, 3, 4])) s)).map (fun t => Memory.read t.mem 64 4) = some [1, 2, 3, 4] ∧
    (next? (exec (.hostApertureAccess 0 64 4 none) s)).isSome = true ∧
    (faulted .ingest ing).map (fun t => (t.port 0).ingFault) = some true ∧
    (faulted (.submission 0) s).map (fun t => ((t.port 0).qp 0).sqHead) = some 1 ∧
    (faulted (.access 0 0 2) rd).map (fun t => (t.core 0).inflight) = some [] := by decide +kernel

theorem test_port_states :
    let s := hosted
    (next? (exec (.ideStreamInsecure 0 1) s)).map (fun t => (t.port 0).ideInsecure) = some 2 ∧
    (∀ c ∈ [Instr.functionLevelReset 0, .hotReset 0, .linkDown { port := 0, perst := false }, .d3hotEntry 0],
      (next? (exec c s)).map (fun t => ((t.spine 0).st, (t.port 0).stop, (t.port 0).win.isEmpty)) = some (.idle, 0x17, true)) ∧
    uninjected s = true ∧ s.hm.fwState = 0 ∧ (s.measurement (some 0) 4).isSome = true ∧
    (next? (exec (.doeSpdmMessage 0 [0x13, 0xE4, 0, 0]) s)).map (fun t => (t.port 0).spdmSession) = some true ∧
    (next? (exec (.linkTraining 0 8 4 { flit := true, perstLow := false }) s)).map (fun t => ((t.port 0).rate, (t.port 0).width)) = some (4, 8) ∧
    (next? (exec (.linkTraining 0 2 4 { flit := true, perstLow := false }) s)).map (fun t => ((t.port 0).rate, (t.port 0).width)) = some (0, 0) := by
  decide +kernel

/-! Hallmark. -/

/-- A module whose slot 0 holds an admin key, and slot 1 another of a role. -/
def keyed (role : Nat) : State :=
  { State.reset with
    supply := { on := true }
    hm := { Hallmark.reset with fwState := 0, keys := [(0, { key := some 5, role := 2 }), (1, { key := some 6, role := role })] } }

def req (slot : Byte) : Hmp := { tag := 7, slot := slot, nonce := 0, sig := 0 }

/-- A public key, as the number of its bytes, and an r such that r, r signs a message under it: the point of x = r less j
times the base point, where j times r is the message's digest. -/
structure Signed where
  key : Nat
  r : Nat

def Signed.bytes (g : Signed) : List Byte := beBytes 66 g.r ++ beBytes 66 g.r

/-- Signed, the request of slot 0. -/
def signed (g : Signed) : Hmp := { req 0 with sig := BitVec.ofNat 1056 (ofLe g.bytes) }

/-- A module whose slot 0 holds the key of g with a role. -/
def signer (g : Signed) (role : Nat) : State :=
  { State.reset with
    supply := { on := true }
    hm := { Hallmark.reset with fwState := 0, serial := 0, keys := [(0, { key := some (BitVec.ofNat 1064 g.key), role })] } }

/-- What Accepted asks, of a request that arrives while none waits. -/
def accepted (s : State) (h : Hmp) (role cmd : Nat) (body : List Byte) : Bool :=
  s.supply.on && s.fenceDue.isEmpty && s.hm.portUp && !s.unanswered && s.hm.fwState != 2 && s.hm.netQueue.isEmpty &&
  decide (h.slot.toNat < 4) && s.hm.verifies h cmd body && decide (h.nonce = (s.hm.key h.slot.toNat).nonce) &&
  decide (role ≤ (s.hm.key h.slot.toNat).role)

theorem accepted_spec {s : State} {h : Hmp} {role cmd : Nat} {body : List Byte} (a : accepted s h role cmd body = true) :
    Accepted s h role cmd body := by
  simp only [accepted, Bool.and_eq_true, decide_eq_true_eq, List.isEmpty_iff, Bool.not_eq_true', bne_iff_ne] at a
  obtain ⟨⟨⟨⟨⟨⟨⟨⟨⟨h1, h2⟩, h0⟩, h3⟩, h4⟩, h5⟩, h6⟩, h7⟩, h8⟩, h9⟩ := a
  exact ⟨⟨⟨h1, h2⟩, h0, h3, h4⟩, Or.inl h5, h6, h7, h8, h9⟩

def byCheckpoint : Signed :=
  { key := 0x6477a54e568f2262c6571259ec1be4b97e8fec88365f7956e5d910c7eafb83db75900dd4333f9bc3ac2200bac33f55c50e270e9dfdd746ddfcf61ffedf073492f50038293443ff64ea292b143cb22a875bd720e36ca47d090cf1c92efe802075dc1ab2d2b917629b742905ec8ab74ddb7317478b7d112e8c6f75109222a051200f89280104
    r := 0xd67f0c07a41933d185d4e379cda37b65afab99464c0117db3dab76aad421011c1a9aa7bbc63633132b1e8e20906a84e836f07dcf7b46f3d0b4ab1a863ddfbfa1 }

def byReadSensors : Signed :=
  { key := 0x6be4dea27243cbc1a7cdb8be8b5fc215c12f2a0449e106261792fd70975c41eb877ee640e25e80e0346611e3b112e0fa409d422840c348872e9e24f6972426c6c301a1654bb8b45edef1443d3cef4e6b3da35d61b17705a9b3387b20bdc9c1e99b0c259145e1c1c17a7e6124be205fc099226980e3c82ea2531808126632bc9051f8830104
    r := 0x9eb7fedcf5cd8e1f8c1c3ed5a6eba80945575a1cd36704503a5adeef33daf1c64dbf81f62e56e91dbd61caaf176eba0b28f0f98e829b009bff2f1986fc4c3550 }

def byReadLog : Signed :=
  { key := 0x74783c7ce4e7360f66fdf72319db0de9c7774af17b78591c8abeaad1f5531501a6d2ffb28967784258a8f6226dd8b0873314640ee34a8a6ca8cc9a11513ec5574e01d69b898af22244b7daadc31d261012c8238f9249bfbba882b136396c634591209e61f5f11b0f39a298569cb81a5da002dc8f03182d8bee4f597ed895a966b6b8300104
    r := 0x79d74cb8567c14a8dd599c4a025719f9c680e960e5a25f55e0f5898d7881c016461c3f4b02129b9a944e0d27bfc1e0ee2a9718b18cf9678a8295641490e2b338 }

def byGetAllot : Signed :=
  { key := 0x230b971085edc264bdc1142b247284b9263e736aaefd0dbd9e57b65440fbf47b8d1352b48b0bf9a2058cfb9e81d43bf89bd2c0a3e8c6a447bd317dcd26d767496b00d908b5708b24e0cabd2057dfaa2f4a23b41ad3003082de3496b16f855f306e5de23e1f63059556743ad3267c6279eaa9d6935a123b521934073817ba1b1d7ea0d00104
    r := 0x1000e4374d5030c58c71f0e4df8a2610a08ed3e2cc80fc69e5a81edd5dbc48946708bf70e4374e2fc96de2c900aa646d53edf0300092415dbcb05318ca31f2bef34 }

def byAlertClear : Signed :=
  { key := 0x4fb510c01bab1e1ac008c8a15416399ef8805c4efe39545cc6a4c59b0c7f2bbf488901076a0a97832baec017e4ac7e8766103c58bf277023be1b55a4f2625d7a21019c8fd6b339d6595c8a1cd4e1d3a738611d5e889734a2dfe89d5657ee35fb746f5bec19ddc1fa8489454e0bcf893409671092f7788818bf60f404478bbf54064bfb0104
    r := 0x6fbeabdf0e5b0bb8ca21dd16376eede2e4969d548adeb39d46564f7e48b6eac07a32c2908224a53dfe23b49abbdd967fccf2446d8cd9d80b8ceac27604f6c8dc }

def bySetAllot : Signed :=
  { key := 0x72e4c8ea05a46b8e512c011f6406bc2b041461033be1a17ac12480829dcc0e472f75a633d11d8fb1abd8abdb234d5d3afd4e5e5950e2bd65e01e7d78711b293c8501b94f97a7849eca644367bd027b26d3a6cb53fd7bcfd73633c0fde7242e6fa8d3f61f246374213f78c8bf5eae07f5f2107f1d44205aed56fc0f7645b4ec44e933ae0104
    r := 0x3ee4b21c87fb6dcccb8794f1922aae551a80acefad734b060bbe55fe8dc8326d197dffee6306737102ed978df3c60967a8835c1f1272432b17e7ab9446485b4d }

def byBadAllot : Signed :=
  { key := 0x9345616779b3757e8d02a92c0164f05cd3e21f04697c61dcf14d9f86c5a28e4182584ef91cad0ae8daa7ac3805f8841befeaf38842e83d7b4f4aa8df4fc1107f9c018004ea2fb23bd7868e8c12dacdbfff23e3a328e2578808aeda4d1aa55b720d3b2ab0a0e13558eb495031563b6a329d25bebcfb0158492936fd82a01e8f7adef7e30004
    r := 0xfd122a1f8a3fbcb809b2c50d1bba35b6451800c057adb9178aa8d4486ca23c948807e7effce4d57420d9992ca084eef30e172c4c7b357114bc65693d531c74f5 }

def byFence : Signed :=
  { key := 0x36bdffadb67fddb0b11bf98eae537cc09b2ce50398aa17b3484a6cf92951f954604a06100a542c1a438d49f12edc91d1280bf73f7f534f83d74fc838ad9c72113c018e010e77205a77b1f1dc5f2d804138bd175b0b12d66aa5f28be8e0cab9741cef5e905f11a8c9a9bfd567c731808d8df21ef82b1f49270ec63b7373c51422c430060104
    r := 0x91cc88afe3be3328d7534ee53648a01154b6664d99ea4495f59526146ae17dc14b85de7951ed40ec8fafa5ece59b7a559e355711af4b5353a9a98795cbc3fc7f }

def bySetEnvelope : Signed :=
  { key := 0x709e7204f471d3e7ec6094bb36467912ffecdcb73bb6bb81eed374aba09226d95dcac1c36a93d8f7d5e7baae7cd17238062c598903ddbf3599899f66b90685902a006faf48de0f83a6c27e1d7bf87732507a20d5d51c83ea5db662c095e8c90b165c300103fcd9d2a9687f228d2d0c5389e5c2e2c2e8a18450d5423fbe48454b57c2040004
    r := 0x434e5051e5dbb4f08171cdca90a271a4a923f7626ca45f59e53a02973796f29446c88a73b384adbae7c434f4fff710f0609d7fc8ba2fc7fd493c3262149c98ca }

def bySetFilter : Signed :=
  { key := 0x6fc624aecf40d76d6cbb29f1147073c0efda30b22e3b1946fec452cc22297bee0af18b521161c74390dafc7fbd4d94a7fed1f7d871b8f11089b789759a118d24b401a355c134cab282c73bed26b4a82eea30821dbfd52c9c66c599aec224ca26124d730a1ef1cd8e907526f3e2b37cc7045e95c5057a89d56dffe81e451f8c7a261f9c0004
    r := 0xf9045e96f7907cba35f5e33b5fe58b2574020f4af93cc797ba75de8ac8b219ab6ee2c9e313a918c3dd789b920af939716cd74cb5376c0a2db6b6c55e61d89067 }

def bySetNet : Signed :=
  { key := 0x661b6a023ee05499c54d211537c1be3777e320783c4d6f1dd227ab140c59e0c27860ca132c987deef89a8e616fa54cb302fa43c61247a015f1cf2c9c080ee5286301939404095a8814187b79d8c994c0fea2166eec39261535306fd78360c7e7f45920ddfaa8becf0c81d916e113011f0aa7027d59b12b35735c84a4a2412fdaaef4aa0004
    r := 0x100602be26db8c710b3295c945a540bab736f926291401bb701fb87f1a7b61b1f914a38764fe7d6212035fb2cbe2a56159d0260b0183da86c2485bdd941972047a9 }

def bySetThresh : Signed :=
  { key := 0x2ccdaf96ea7714b3d2571cb8a24ae567a30a49f3327437ecc64585427db6913282cc03c69dc5f7dbbbe1605f1246991e2a522d82b670f61d896f2d8dda7432f917015ba974f7b83493cf3956fadcd06ac62452853043abca7c7bb9566ffc297c6674bf3debbfe322128e6d0793213a14b8242025c3990be58355711fbcf6062b3b88560104
    r := 0x10028203e76ac5531fbfe4fe8f646b64b8f60f381b8c9c18e728438e1ea31903891cabffe69d0053600e3ee86610fd4c69722aa9516e531562fc331df4953e8175a }

def byFwStage : Signed :=
  { key := 0xe974dd20d03ee93d89e1f9aa5ebf3c6d1188282a3e9dc01a26d099ff3bfad48666a0c6d6d41bb2c978dce2951e21f35d3896523633bf17d8bb4db97601e2d2499301247e470581a1a336cf300ee7c1e215e7e0b47142c4bfdd291fe2d9872da169630a7c78fb3e6d1b5e400e411e6035701dec7f0e9fc7b08f5f8b2fb2886ebf49625f0104
    r := 0xaeecf32761f1c72d43d3847e22fef97e1fec6c69e3cd166a2d4e80b346aa8a39630b9d1d65e5af8ac8f79a425dec80e8cd6a494d76470411fe7669e3a6739766 }

def byFwVerify : Signed :=
  { key := 0x1ef750dc1b183d0063fa14fe0601792b2521f7544cbd7c18fb7a27b84601b931affbd7193c08d9f4fbf16df63719485ba95f3b8340389f78745c004e313131c36400af4a6307e772e2dde70051bd80cbbbc7bc4cceb74d8f6aca187b8ca9c93aaed308819fb6f88f40b73b94b966bd786ef25b65a2f119b103f9a070508b3b4fb7a6a50104
    r := 0x33c8ff3068b4e21a8e8d8ae1304ace9eab2527b9461adc7b43b0a0b77ad011fb986e57d1bc070bff9c0cba473f1cbbb4eaacface81385d813b5af4ac06049593 }

def byLongVerify : Signed :=
  { key := 0x8af32f1f02c6703fe4e5502a1944c603d6b3788035ee9a4287c1d7813ba1bb0be5a68a80aec6e30f100256a526c824ac799591f20a1590926fb67445397f9fabf1011787a6d9faccbeb9df6d7c91476d27b7ca56bcc900091f288dcec9d01013d64fd41db3d351053cf7c71917422f5d808518836fa5dcd2b51e07c7fb7a99cd057fd30004
    r := 0xb3fcef008fa53d09080dfe6e18e2b513bdcb11889cc1944d44db19c32e83a516564fb19b2e321520e9c83c40a4026a1edc628c0fc7a31235527f341161f2a686 }

def byFwActivate : Signed :=
  { key := 0x2adaad657c7899fe3ef5e75bf5fa29fcf7bd37cd926fe051778cf88d646e45e4d92855fe20c53c287427bd5d8b9830327e59b46f50a43a74e63b37b6a0e337d668002c3aeaf2f13bea16365346c833d421468beadf5a82e63f8f7b055d52b62e9e03f5b4fe6481b7e1a915def3ef3cbb16f6c32fd182ddfa233ed3c634601faf55c16e0104
    r := 0x100341434d63d14139e2ae4be369ccc5986ae0b231d871e73d6fd599443d0bc94871df284e538f51beb9c180c3001d1ccd4c97984fe506a346f49cf8a45cc522a4d }

def byFwSvnCommit : Signed :=
  { key := 0x1527b369d6c455e160aef0e91636d79466e71e1eb4a35763e7c00b6538cce1be058d0b20d146e74812bde8403567f497da4599fb566f58bbdacbe9ea5333c60084010299aa058b925987ce1276760590c9f55d1040239ec89507c6066141a784b0e8eca8621a7b40e76f7cfba2ecefad8136a12e2c4eb3bbb3578cefa41ef6ed5075430004
    r := 0xa93412933bca92aa5ff8c8c17491dc78e724fc44a3c7d646fd7eb7c9aecb5be59a923c7ffb34d470ba2128d82118f4c8a733f9679039e020c119e4d8741580c }

def byKeySet : Signed :=
  { key := 0xf83c79fb391da709378c618d375376a8e6da345e6e73513b8600b6a9384af115a394bed956229f41fd77bd6f2fc66a5746fe675b6921fd655be42a4575d5a6b59f00585eba4dda9115da9b857f67991d239847b57671f7ece8d1b9c8377c1d29f1a4f7711fc11304a8bc9cd4e9ad8fb3ce745bbab62f0f6c90487a42a54cbceeb7c77e0104
    r := 0x19ce2902687cbc26b132483eff553c1e81baeb35e19706ea0757769ec0d320f5906a2463c2bc36b8c2e8e0599c46cdc1cfc56e56e2ca51376f206361b49e90e }

def byKeyRevoke : Signed :=
  { key := 0xa3475d721933e0346e977d893e66825611d8623207ff09f8f97c08e5df0003d2dabea59625f55c293f6af88ab8b32d62ed393a1707d52f674945eed7d7f83e3b3f018fb2095ea73de41787889a1a18c45ba95ed42279ba344afaf22614eec4e1a784afe3eca02dff2fcb8e1c2fcae36b256d4b3e504758eea1ae672d6c8f2c39bbbb450104
    r := 0x80336bd52ed6ad1de7a8c0c4f28b66f0b23835c6d541b764a7b41e6e4b3cfa6cf65b7455e661939e3c426cb809e96d7462c3779dcb350a4baec669ced76732e4 }

def byJtagUnlock : Signed :=
  { key := 0x76eb863e50f04612b13c5dd8e1a6d4e5d79a69493357c97b914a912f2de32fcec2bb55706b17716120e17131cf71862c8f3aae1bfaaa67459f527f77c2e3a68fca01e1ce1970c2096c6ad62bffcec51cb1c1ad1a58dfa13f2340f0dd056f2a501dff3e29aa2a739b5943bc39cad5a7d9abc49d4d4a7e6963698a272ec16c0bdc35a4d90104
    r := 0x3bb7dc20b73f774f71e6aab256cb02c28fa6f261a119e86adc4c4fa72761fb4425b739ad4a35ad593c15055f74cae6d42b573c1692a939d10b38fc07dcce8253 }

def byReset1 : Signed :=
  { key := 0x2da0061fde0d31173530296b9b7c7a18d50953808a6db6662079288b922ee9278728af6a9746a5997f1fce798a8441e260d461bc006077fe9f9498e4f9d3e50c6001725bc1ea27057a9c0657dd3ef7d29be6f640f3c3d54489079b8f5e7b440d1a33c0fd761471793b38672f9bd0368e72dbc637de2f1651512bb7bd8af5f1c99101b40104
    r := 0xca63c6690d8a605173ef9f3d0814d3da28cf09f89bbb4be53b1d13fc0928d0a8cacc53ce9193d9825a49e8106e02c3dc56fecbd1436e9538e3148684fda9592d }

def byReset2 : Signed :=
  { key := 0x2f6c6cd761cde3d2cd53df0458002376ef243002f4a7a278ddb5883d11251c177468a2a40a059842803873878f060a37a90bc0b7ce3c6c64bee24b11bf8ef6e6cb016806b0577341f8ddb15e15e2823b702b8352b18867a3feb80c029dde3ac8c1c004a73df219ad6c64f83914192057a80c2981542f8c9104360b3e85c929543054220104
    r := 0x72d95581ce9274925546ddd03bc6b1bf0f7c635f9f27b348f5513e1d5ced02d035dc2d750ccb59d61cb98bc02e5742e44719d626ed56db354da73fcbda662725 }

def byReset3 : Signed :=
  { key := 0x71ae47adfa3415eb3900bf9c3826bd636a7a9cd28f927ffb5ea4c8bc28e3977a7e2307aa0068f8a835c17bd4fc5833b97b9358b33f7de3719b92b720730f90136600f4bb9793c6dd9ba78c78aabb641348c90720bdc5f654e366726116bc40a7059319b58094ae3d927e453e54b0baef0eb8131bcb9d90ae02461f9d8dd9bea18ac9af0004
    r := 0x46f37fca08a37a67f48c8cedd385e107ef7b34ae16f20faf6d5bd984da612c38bbc679d9f981fe4d326d641c95a79cf703e2255c0bdfe01a86a66cb3707680d4 }

def byToken : Signed :=
  { key := 0x726f6c55934da8b711ff9f57527ac6cfc545f4db504690e77956e18d8e37350c751dff45297357893ef4be37130f6b745804c3f134f4a4685ffe9b4181b32db77000e20dad56138e4aa2a898940a1a16eb0dcd2db4b310c96a5e897c56a2eaffd51bde6ef294927784e3be742c106d5f9c9cab497a40aa46062a3bae998e4d82ea765f0004
    r := 0x4f22fca6ddc1f4459d5f54ea0fba9b5454ab22ad47421a4abd29ac24ff9037ff33c3dc833bf52e06b319c5f4553f2ded8e357b9a3639c4d32794a711b84e3044 }

/-- The key that signs the staged image, and its signature of the image's header. -/
def imageKey : List Byte :=
  leBytes 133 0x1b252505c98b6b5c7bfcde5d2a71769e5f1ace9145a323952b9eeccd93f2d06b55decb268ad9db71ddf02428d082c5b57884d6397a31d8d110a1a2aa9b7d1b2d3d00d4ec162888adce019a61c2fd503f956fc4bbe3dc30dfa6c9d898c6bf0a8d308c5d4c11f7c2d218f0283248f5e8e0225f0c3a070bda5fb6ee46637f5b9dd9d1d5560004
def imageSig : List Byte :=
  leBytes 132 0xd95302907a901cb1107291711ebcf0175d5b662acf4f7661b5140499ae21e6ede28719fcdc0bbb37c94ac37bd79e31a7ab973a791802faf612171721b5d9ea25f40078308fec9650abd5381793d8e6e1d729a3797e13affe12712314305e6d0c3c38e4ac77f1b8da03cf240d3fb5fd6e597abfb04ec09133bc3dc732a42729c5f32b6500

/-- The status of the response. -/
def respStatus (o : Outcome State Fault Refusal) : Option Nat := (next? o).bind fun t => t.hm.resp.map HmpResp.status

theorem test_frame_states :
    let s : State := { keyed 0 with hm := { (keyed 0).hm with net := { ipv4 := 5, ipv6 := 0, udpPort := 47211, fec := 0 } } }
    let l := datagram (req 0) 0x0012 []
    let f (x : Frame) (s : State) := next? (exec (.networkFrame x) s)
    hmpDatagram l = true ∧ malformed l = false ∧ s.unanswered = false ∧ s.hm.ownAddr (.v4 5) = true ∧
    (f (.resolve (.v4 5)) s).map (fun t => t.hm.netAnswer.isSome) = some true ∧
    (f (.echo (.v4 6) [1]) s).map (fun t => t.hm.netAnswer.isSome) = some false ∧
    (f (.udp (.v4 5) 47211 l) s).map (fun t => t.hm.netQueue) = some [l] ∧
    (f (.udp (.v4 5) 47211 l) { s with hm := { s.hm with netQueue := List.replicate 16 l } }).map (fun t => t.hm.netDrop) = some 1 ∧
    (next? (exec (.checkpoint (req 1)) { s with hm := { s.hm with netQueue := [l] } })).map (fun t => t.hm.netQueue.length) =
      some 2 := by decide +kernel

theorem test_refused_requests :
    let s (role : Nat) (nonce : BitVec 256) : State := { signer byCheckpoint role with hm := { (signer byCheckpoint role).hm with
      keys := [(0, { key := some (BitVec.ofNat 1064 byCheckpoint.key), role, nonce })] } }
    respStatus (exec (.checkpoint (req 0)) (s 2 0)) = some 2 ∧ respStatus (exec (.checkpoint (req 2)) (s 2 0)) = some 2 ∧
    respStatus (exec (.checkpoint (signed byCheckpoint)) (s 2 1)) = some 3 ∧
    respStatus (exec (.checkpoint (signed byCheckpoint)) (s 0 0)) = some 4 ∧
    accepted (s 2 0) (signed byCheckpoint) 1 0x0012 [] = true := by decide +kernel

theorem test_unsigned_requests :
    let s := keyed 0
    let st (o : Outcome State Fault Refusal) : Option (Nat × Nat) := (next? o).bind fun t => t.hm.resp.map fun r => (r.status, r.body.length)
    let none_ : State := { s with hm := { s.hm with keys := [] } }
    s.unanswered = false ∧ s.hm.netQueue = [] ∧ (s.measurement none 4).isSome = true ∧ s.hm.hmpSessions < 4 ∧
    st (exec (.ident (req 0xFF)) s) = some (0, 64) ∧ st (exec (.getNonce (req 0xFF) 0) s) = some (0, 32) ∧
    st (exec (.spdm (req 0xFF) [0x13, 0xE0, 0, 4]) s) = some (0, 60) ∧ (∀ k, k < 4 → (none_.hm.key k).key = none) ∧
    (next? (exec (.keySet (req 0xFF) 0 2 77) none_)).map (fun t => (t.hm.key 0).key) = some (some 77) := by decide +kernel

theorem test_reading_requests :
    accepted (signer byReadSensors 0) (signed byReadSensors) 0 0x0003 (leBytes 2 0 ++ leBytes 2 2) = true ∧
    accepted (signer byReadLog 0) (signed byReadLog) 0 0x0004 (leBytes 8 0 ++ leBytes 2 19) = true ∧
    accepted (signer byGetAllot 0) (signed byGetAllot) 0 0x0010 [] = true ∧
    accepted (signer byAlertClear 1) (signed byAlertClear) 1 0x0005 [] = true := by decide +kernel

theorem test_read_log_overwritten :
    let s := signer byReadLog 0
    respStatus (exec (.readLog (signed byReadLog) 0 19) { s with hm := { s.hm with logHead := 20000 } }) = some 8 := by decide +kernel

/-- A table of one valid record that passes its checks, and one that fails the first. -/
def table0 : List AllotRec :=
  { rec0 with row1 := 0, packages := 1 } :: (List.range 7).map fun k => { rec0 with port := k + 1, valid := false }
def table1 : List AllotRec := table0.map fun r => { r with row0 := 1 }

theorem test_table_requests :
    let s := signer bySetAllot 2
    let x := signer byBadAllot 2
    s.tableCheck table0 = none ∧ table0.length = 8 ∧ x.tableCheck table1 = some (1, 0) ∧
    accepted s (signed bySetAllot) 2 0x0011 (table0.flatMap AllotRec.bytes) = true ∧
    accepted x (signed byBadAllot) 2 0x0011 (table1.flatMap AllotRec.bytes) = true := by decide +kernel

theorem test_governing_requests :
    let par : FilterPar := { release := 100, assert := 5, minPulse := 2, alertAfter := 10, flowMin := 9 }
    let net : NetCfg := { ipv4 := 1, ipv6 := 2, udpPort := 3, fec := 0 }
    let s := signer bySetEnvelope 2
    uninjected (signer byFence 1) = true ∧ accepted (signer byFence 1) (signed byFence) 1 0x0013 [] = true ∧ s.allIdle = true ∧ s.hm.brake = false ∧ s.hm.leak = false ∧
    accepted s (signed bySetEnvelope) 2 0x0020 (leBytes 1 16 ++ leBytes 2 400) = true ∧
    accepted (signer bySetFilter 2) (signed bySetFilter) 2 0x0021 (filterBody 4 par) = true ∧
    accepted (signer bySetNet 2) (signed bySetNet) 2 0x0022 (netBody net) = true ∧
    accepted (signer bySetThresh 2) (signed bySetThresh) 2 0x0023 (leBytes 2 3 ++ leBytes 4 (BitVec.ofInt 32 90000).toNat) = true := by
  decide +kernel

/-- An image of a header alone, version 9, signed and staged. -/
def fwImage : List Byte :=
  padTo 512 (padTo 0x40 (leBytes 4 0x4D484657 ++ [1, 9, 0, 0] ++ leBytes 4 9) ++ sha512 [] ++ padTo 136 imageKey ++ imageSig)

def stagedState : State :=
  let s := signer byFwVerify 2
  { s with hm := { s.hm with
    staging := Memory.bulk [] 0 fwImage, staged := List.range 512, fwKeyHash := BitVec.ofNat 512 (ofLe (sha512 imageKey)) } }

theorem test_firmware_states :
    let img : FwImage := { data := Memory.bulk [] 0 fwImage }
    let s := signer byFwVerify 2
    let test : State := { keyed 0 with hm := { (keyed 0).hm with selfTest := true, fwState := 1, running := img } }
    accepted (signer byFwStage 2) (signed byFwStage) 2 0x0030 (leBytes 8 0 ++ [1, 2]) = true ∧
    accepted s (signed byFwVerify) 2 0x0031 [] = true ∧ s.hm.stagedTo s.hm.stagedImage.length = false ∧
    accepted (signer byFwActivate 2) (signed byFwActivate) 2 0x0032 [] = true ∧
    accepted (signer byFwSvnCommit 2) (signed byFwSvnCommit) 2 0x0033 [] = true ∧
    (next? (exec (.fwSelfTestResult true) test)).map (fun t => (t.hm.flash.version, t.hm.fwState)) = some (9, 0) ∧
    (next? (exec (.fwSelfTestResult false) { test with hm := { test.hm with flash := { data := [] } } })).map (fun t =>
      (t.hm.running.version, t.hm.fwState)) = some (0, 2) := by
  decide +kernel

theorem test_staged_image :
    stagedState.hm.stagedTo stagedState.hm.stagedImage.length = true ∧ stagedState.hm.imageOk stagedState.hm.stagedImage = true := by decide +kernel

/-- The requests that touch firmware while an activation runs find the group busy. -/
theorem test_firmware_busy :
    let s := signer byFwStage 2
    let busy (s : State) : State := { s with hm := { s.hm with selfTest := true, fwState := 1 } }
    respStatus (exec (.fwStage (signed byFwStage) 0 [1, 2]) (busy s)) = some 7 ∧
    accepted (busy (signer byFwVerify 2)) (signed byFwVerify) 2 0x0031 [] = true ∧
    accepted (busy (signer byFwActivate 2)) (signed byFwActivate) 2 0x0032 [] = true := by
  decide +kernel

/-- FW_VERIFY takes no body: one with a byte is malformed (R378). -/
theorem test_long_verify :
    let s := signer byLongVerify 2
    accepted s (signed byLongVerify) 2 0x0031 [0] = true ∧ s.hm.selfTest = false ∧
    respStatus (exec (.fwVerify (signed byLongVerify) [0]) s) = some 1 := by
  decide +kernel

theorem test_key_requests :
    let s := signer byKeyRevoke 2
    let two : State := { s with hm := { s.hm with keys := s.hm.keys ++ [(1, { key := some 6, role := 2 })] } }
    accepted (signer byKeySet 2) (signed byKeySet) 2 0x0040 (leBytes 1 3 ++ leBytes 1 1 ++ leBytes 133 (77 : BitVec 1064).toNat) = true ∧
    accepted s (signed byKeyRevoke) 2 0x0041 (leBytes 1 0) = true ∧
    accepted two (signed byKeyRevoke) 2 0x0041 (leBytes 1 0) = true ∧ (two.hm.key 1).role = 2 := by decide +kernel

/-- A token for the module of serial number 0 and nonce 0. -/
def token0 : List Byte := leBytes 16 0 ++ leBytes 32 0 ++ leBytes 133 byToken.key ++ byToken.bytes

theorem test_unlock_request :
    let s := signer byJtagUnlock 2
    let x : State := { s with hm := { s.hm with fwKeyHash := BitVec.ofNat 512 (ofLe (sha512 (leBytes 133 byToken.key))) } }
    x.allIdle = true ∧ x.hm.tokenOk 0 token0 = true ∧ accepted x (signed byJtagUnlock) 2 0x0060 token0 = true := by decide +kernel

theorem test_reset_requests :
    accepted (signer byReset1 2) (signed byReset1) 2 0x0070 (leBytes 1 1) = true ∧
    accepted (signer byReset2 2) (signed byReset2) 2 0x0070 (leBytes 1 2) = true ∧
    accepted (signer byReset3 2) (signed byReset3) 2 0x0070 (leBytes 1 3) = true := by decide +kernel

/-! Starts, supply, inputs, sensors and power. -/

theorem test_supply_states :
    let c : State := { State.reset with supply := { en := true, inputOk := true, charging := true } }
    let w : State := { State.reset with supply := { en := true, inputOk := true, retryWait := true } }
    let t : State := { keyed 0 with hm := { (keyed 0).hm with trip := true } }
    c.supply.charging = true ∧ w.supply.retryWait = true ∧ t.hm.trip = true ∧
    (next? (exec .inrushTimeout c)).map (fun t => t.supply.retryWait) = some true ∧
    (next? (exec .inrushRetry w)).map (fun t => t.supply.charging) = some true ∧
    (next? (exec .thermtripTurnOff t)).map (fun t => t.supply.lockedOff) = some true ∧
    (next? (exec .overVoltage t)).map (fun t => t.supply.overVolt) = some true := by decide +kernel

theorem test_start_states :
    let s := keyed 0
    let hung : State := { s with boot := { at_ := some (0x03, 0xFFFF) } }
    uninjected s = true ∧ uninjected hung = true ∧
    hung.boot.at_ = some (0x03, 0xFFFF) ∧ (hung.hm.filter 0).active = false ∧ (hung.hm.filter 3).active = false := by
  decide +kernel

theorem test_input_states :
    let s (n : Nat) (f : Filter) : State := { keyed 0 with hm := { (keyed 0).hm with filters := [(n, f)] } }
    let low (n : Nat) : Filter := { filterDefault n with started := true, hi := 1000, prev := true }
    let act (n : Nat) : Filter := { filterDefault n with started := true, active := true, lo := 10000000, calm := 10000000 }
    (∀ n ∈ [0, 1, 2, 3], uninjected (s n (low n)) = true ∧ ∀ m ∈ [0, 1, 2, 3], m ≠ n → ((s n (low n)).hm.filter m).due = false) ∧
    (next? (exec (.inputFilterEnter 1) { keyed 0 with hm := { (keyed 0).hm with filters := [(1, low 1), (2, act 2)] } })).map (fun t =>
      (t.hm.filter 1).active) = some true ∧
    (∀ n ∈ [0, 1, 2, 3], (next? (exec (.inputFilterEnter n) (s n (low n)))).map (fun t => (t.hm.filter n).active) = some true) ∧
    (∀ n ∈ [0, 1, 2, 3], (next? (exec (.inputFilterLeave n) (s n (act n)))).map (fun t => (t.hm.filter n).active) = some false) ∧
    (next? (exec (.inputHeldAlert 0) (s 0 { act 0 with held := 100000000 }))).map (fun t => t.hm.alert) = some 1 ∧
    (next? (exec (.inputSample 0 true) (s 0 { low 0 with hi := 3 }))).map (fun t => (t.hm.filter 0).hi) = some 4 ∧
    (next? (exec (.inputSample 4 false) (s 4 { filterDefault 4 with started := true, prev := true, lo := 1000000 }))).map (fun t =>
      t.hm.flowCount) = some 1 ∧
    (next? (exec (.inputSample 1 true) { keyed 0 with hm := { (keyed 0).hm with filters := [(1, low 1), (3, low 3)] } })).map (fun t =>
      ((t.hm.filter 3).active, (t.hm.filter 1).active)) = some (true, true) ∧
    (next? (exec (.inputSample 0 true) (s 0 (filterDefault 0)))).map (fun t => (t.hm.filter 0).started) = some true ∧
    (next? (exec (.flowWindow ()) { keyed 0 with hm := { (keyed 0).hm with flowCount := 50, ulPulse := 1000, flowMin := 4000 } })).map (fun t =>
      (t.hm.flowRate, t.hm.lowFlowMs)) = some (3000, 1000) := by decide +kernel

theorem test_sensor_states :
    let s := keyed 0
    let x (f : Island → Island) : State := { s with islands := [(4, f {})] }
    (next? (exec (.sensorSample 8 (some 61234)) s)).map (fun t => (t.island 4).temp0) = some 6123 ∧
    (next? (exec (.sensorSample 8 none) s)).map (fun t => (t.hm.sensor 8).missed) = some 1 ∧
    (next? (exec (.sensorSample 162 none) s)).map (fun t => ((t.hm.sensor 162).stale, (t.hm.sensor 178).stale)) = some (true, true) ∧
    (next? (exec (.sensorSample 153 (some 9)) s)).map (fun t => (t.hm.sensor 153).value) = some 0 ∧
    (next? (exec (.throttleStepUp 4) { x (fun i => { i with capStep := 3 }) with hm := { s.hm with throttleOk := [(4, 100)] } })).map
      (fun t => (t.island 4).capStep) = some 2 ∧
    (next? (exec (.clockStepSwitch 4) (x fun i => { i with relock := some 2 }))).map (fun t => (t.island 4).step) = some 2 ∧
    (next? (exec (.clockStretch 4) s)).map (fun t => (t.island 4).stretched) = some 1 := by decide +kernel

theorem test_governor_states :
    let r : Ramp := { from_ := 0, target := 40, curve := none, tick := 3, windDown := false, owner := some (0, 0, 2) }
    let s : State := { idleCore id with islands := [(0, { tested := 0xFFFF, gov := { ramp := some r, allowed := 40, planned := 40 } })] }
    let w : State := { idleCore id with islands := [(0, { tested := 0xFFFF, gov := { idleTicks := 1000, planned := 40 } })] }
    (next? (exec (.rampComplete 0) s)).map (fun t => ((t.gov 0).ramp.bind fun x => x.owner)) = some none ∧
    ((w.gov 0).moving = false ∧ w.hm.govIdle.toNat ≤ (w.gov 0).idleTicks) ∧
    (next? (exec (.idleWindDown 0) w)).map (fun t => (t.gov 0).ramp.map fun x => (x.windDown, x.from_)) = some (some (true, 40)) ∧
    (next? (exec (.governorTick [(0, 7)]) (idleCore id))).map (fun t => (t.gov 0).estimate) = some 7 := by decide +kernel

theorem test_fault_states :
    let s := spined plan2 id
    let stopOf (c : Instr) : Option (AllotState × Nat) := (next? (exec c s)).map fun t => ((t.spine 0).st, (t.spine 0).stopReason)
    uninjected s = true ∧ stopOf (.islandClockLoss 0) = some (.stopped, 0x14) ∧ stopOf (.memoryControllerFault 0) = some (.stopped, 0x13) ∧
    stopOf (.spineFault 0) = some (.stopped, 0x16) ∧ stopOf (.railFault 0) = some (.stopped, 0x19) ∧
    stopOf (.thermalTrip 5) = some (.stopped, 0x1B) ∧
    (∀ c ∈ [Instr.handshakeTimeout 0, .droopBeyondLimit 0, .railFault 2, .coreStateError 0 .uncorrected],
      (next? (exec c s)).map (fun t => (t.core 0).fenced) = some true) ∧
    (next? (exec (.coreStateError 0 .correctable) s)).map (fun t => (t.core 0).fenced) = some false := by decide +kernel

theorem test_log_and_scrub_states :
    let s := idleCore id
    let r : LogRec := { seq := 0, time := 0, kind := 3, allot := 0, coalesced := false, count := 1, ovf := 0, body := [], body2 := [] }
    let q : State := { s with hm := { s.hm with hwQueue := [r] } }
    let e : ErrReport := { cls := 6, island := 0, site := 0, step := 0, detail := 0, allot := 0 }
    let p : State := { s with hm := { s.hm with ports := [(0, [(6, { first := e, last := e, count := 2, ovf := 0 })])] } }
    let turn : State := { s with hm := { s.hm with intakeAt := (3, 0), ports := p.hm.ports ++ [(5, FMap.getD p.hm.ports 0 [])] } }
    (next? (exec .logIntake turn)).map (fun t => t.hm.intakeAt) = some (5, 7) ∧
    (next? (exec .logIntake q)).map (fun t => (t.hm.logHead, t.hm.hwQueue)) = some (1, []) ∧
    (next? (exec .logIntake p)).map (fun t => (FMap.find 0 t.hm.log).map LogRec.kind) = some (some 2) ∧
    s.sliceOk 0 = true ∧ s.pkgOk 0 = true ∧
    (next? (exec (.sliceScrubRead ⟨0, 0⟩ .clean) s)).map (fun t => FMap.getD (t.island 0).scrubPos 0 0) = some 1 ∧
    (next? (exec (.packageScrubRead 0 .clean) s)).map (fun t => (t.pkg 0).scrubPos) = some 1 := by decide +kernel

theorem test_load_path_request_faults :
    let src : LoadSrc := { desc := { sparse with base := 0x100000020000, allocBase := 0x100000020000 }, tile := 0, piece := 0 }
    let s : State := { hosted with cores := (loading (.weights 1 src)).cores }
    (next? (exec (.hostRequestFault 0 (.loadPath 0) .aborted) s)).map (fun t => (fld (t.core 0).taskFlt 63 56, ((t.core 0).run 0).live)) =
      some (1, false) := by decide +kernel

theorem test_due_fences :
    let s : State := { idleCore id with fenceDue := [(1, 3, 1), (2, 4, 3)] }
    (s.settleFences.island 0).sliceFence.getLsbD 3 = true ∧ (s.settleFences.pkg 4).fenced = true := by decide +kernel

theorem test_step_runs_the_front :
    (next? (step { State.reset with pending := [.enJoined, .inputLoss] })).map (fun t => (t.supply.en, t.pending.length)) = some (true, 1) ∧
    (next? (step State.reset)).map (fun t => t.ticks) = some 1 ∧ State.reset.Canonical := by
  unfold State.Canonical
  decide +kernel

theorem test_transposable_masks :
    ∀ k, k < 8 → rowCount 0x8040201008040201 k ≤ 1 ∧ colCount 0x8040201008040201 k ≤ 1 := by
  intro k hk
  have h : ∀ j ∈ List.range 8, rowCount 0x8040201008040201 j ≤ 1 ∧ colCount 0x8040201008040201 j ≤ 1 := by decide +kernel
  exact h k (List.mem_range.mpr hk)

/-! Forms beside the ones above. -/

/-- Threads and instructions that wait, one for each reason. -/
theorem test_waiting_offers :
    let add : Instr := .scAdd (at_ 0) (S 7 5 6 0 0)
    let ld : Instr := .scLd (at_ 0) (S 7 5 0 1 8)
    let parked := ready add [] fun c => { c with threads := [(0, { st := .active, waiting := some 2 })] }
    let busy := ready ld [] fun c => { c with threads := [(0, { st := .active, sbs := 1 })] }
    (parts add).isSome = true ∧ Reached add (at_ 0) parked (offer parked) ∧ (offer parked).t.waiting ≠ none ∧
    Offered ld (at_ 0) busy (offer busy) ∧ namesSb ld = true ∧ (offer busy).t.sbPending 0 = true := by
  unfold Offered Reached State.Up
  decide +kernel

theorem test_interlocked_offers :
    let add : Instr := .scAdd (at_ 0) (S 7 5 6 0 0)
    let va : Instr := .vAdd (at_ 0) (V 3 0 0)
    let late := ready add [] fun c => { c with
      inflight := [{ id := 0, ctx := 0, sb := 2, task := 0, write := false, kind := .load 5 64 true, pc := 0 }] }
    let vlate := ready va [] fun c => { c with vArith := [{ ctx := 0, vd := some 2, elems := [], sd := none, flags := 0, lanes := 0 }] }
    Offered add (at_ 0) late (offer late) ∧ 5 ∈ (late.core 0).pendingRegs 0 ∧
    Executes va (at_ 0) [0] vlate (offer vlate) ∧ 2 ∈ (vlate.core 0).pendingV := by
  unfold Executes Offered Reached State.Up
  decide +kernel

/-- A reserved word of a task that may not retry: the step is abandoned, here without a cut to go back to. -/
theorem test_abort_without_retry :
    let s := planned plan0 (ready (.ctlNop (at_ 0) oZ) [] fun c => { c with code := [(0, 0x1000043AB0000001)], tasks := [(0, 0)] })
    teIdem ((s.core 0).task 0) = false ∧
    (next? (exec (.ctlNop (at_ 0) oZ) s)).map (fun t => ((t.core 0).taskFlt.getLsbD 0, (t.spine 0).st)) =
      some (true, .stopped) := by decide +kernel

theorem test_aborting_forms :
    let sig := planned plan0 (ready (.ctlSig (at_ 0) { oK 2 2 with c := 1 }) [] id)
    let bar := ready (.ctlBar (at_ 0) (oK 2 2)) [] fun c => { c with bars := [(2, { count := 1, task := 3, waiters := [] })] }
    (sig.spine 0).plan = some plan0 ∧ plan0.cores ≤ 1 ∧ (FMap.getD (bar.core 0).bars 2 {}).count ≠ 0 ∧
    (FMap.getD (bar.core 0).bars 2 {}).task ≠ (offer bar).task ∧ countOf (offer bar) 1 5 = 0 ∧
    (next? (exec (.ctlSig (at_ 0) { oK 2 2 with c := 1 }) sig)).map (fun t => fld (t.core 0).taskFlt 63 56) = some 1 ∧
    (next? (exec (.ctlBar (at_ 0) (oK 2 2)) bar)).map (fun t => fld (t.core 0).taskFlt 63 56) = some 6 := by decide +kernel

theorem test_outranked_ramp :
    let r (k : Nat) : Ramp := { from_ := 0, target := 40, curve := none, tick := 0, windDown := false, owner := some (5, 0, 2), issued := (0, k) }
    let s (k : Nat) : State := { ready (.pwRamp (at_ 0) (oPw 3)) [] id with islands := [(0, { tested := 0xFFFF, gov := { ramp := some (r k) } })] }
    ((s 0).island 0).gov.outranks 0 (posOf 0) = false ∧ posOf 0 < 1 ∧
    (next? (exec (.pwRamp (at_ 0) (oPw 3)) (s 1))).map (fun t => (t.gov 0).ramp) = some (some (r 1)) := by decide +kernel

theorem test_stopped_channels :
    let s (st : ChanState) (l : List Nat) : State := { idleCore id with
      islands := [(0, { tested := 0xFFFF, chans := [(2, { owner := 0, st := st })], readyOrder := l })] }
    (next? (exec (.dmaChStop (.os 0) 0 2) (s .ready [2]))).map (fun t => (((t.island 0).chan 2).st, (t.island 0).readyOrder)) =
      some (.idle, []) ∧
    (next? (exec (.dmaChStop (.os 0) 0 2) (s .idle []))).map (fun t => ((t.island 0).chan 2).st) = some .idle := by decide +kernel

/-- The first write to a tracked page copies it. -/
theorem test_first_write :
    let u := spined plan2 fun sp => { sp with ingot := { cut := some cut0, none_ := false } }
    u.resolveRange 0 0x010000300008 2 true = some [(.dev 0x010000300008, 2)] ∧ u.discards 0 0x010000300008 2 = false ∧
    (u.store 0 0x010000300008 [1, 2]).map (fun t => (t.spine 0).ingot.undo.pages) = some [(0x010000300, [], [])] ∧
    (u.store 0 0x010000300008 [1, 2]).map (fun t => Memory.read t.mem 0x010000300008 2) = some [1, 2] := by decide +kernel

/-- A Planisher whose ring lies in a slice reports an address fault and abandons the step. -/
theorem test_ring_outside :
    let a : PhaseAcc := { step := 3, phase := 0, start := 20, stop := 150, ended := true }
    let s : State := { spined plan2 id with packages := [(0, { phases := [a], origins := [(3, 10)], ring := 0x1000000000002000 })] }
    s.inPackage 0 0x2000 32 = false ∧
    (next? (exec (.phaseTimeRecordWrite 576 5) s)).map (fun t => ((t.pkg 0).ringHead, (t.spine 0).st, t.mem)) =
      some (1, .stopped, []) := by decide +kernel

theorem test_validator_answers :
    let s := spined plan2 fun sp => { sp with valBusy := some ([0], DescReq.ofBytes (List.replicate 96 0)) }
    s.pending = [] ∧ (∀ j, j < 8 → j ≠ 0 → (s.spine j).valBusy = none) ∧
    (next? (step s)).map (fun t => ((t.spine 0).valBusy, (t.spine 0).valDone)) = some (none, true) ∧
    (next? (exec (.validatorRequest (.os 0) 0 8 0 1) s)).map (fun t => ((t.spine 0).valBusy.isSome, (t.spine 0).valDone)) =
      some (true, false) := by decide +kernel

/-- A request of eight bytes across the boundary of two entries. -/
theorem test_split_request :
    let s : State := { idleCore id with ports := [(0, { win := [(0, 7), (1, 0x20000007)] })] }
    winBase 0 ≤ 0x10000FFFFFFC ∧ s.resolveRange 0 0x10000FFFFFFC 8 false = some [(.host 0xFFFFFFC, 4), (.host 0x20000000, 4)] := by
  decide +kernel

theorem test_port_forms :
    let on (f : Port → Port) : State := hosted.setPort 0 (f (hosted.port 0))
    let two := on fun p => { p with spdmSession := true, ideInsecure := 3 }
    let train (low : Bool) (s : State) := next? (exec (.linkTraining 0 8 4 { flit := true, perstLow := low }) s)
    (next? (exec (.linkDown { port := 0, perst := true }) (on fun p => { p with rate := 0 }))).map (fun t =>
      ((t.port 0).perstLow, (t.spine 0).st)) = some (true, .loaded) ∧
    (train true (on fun p => { p with rate := 0 })).map (fun t => ((t.port 0).perstLow, (t.port 0).rate)) = some (true, 0) ∧
    (train false (on fun p => { p with rate := 0, held := true })).map (fun t => (t.port 0).rate) = some 0 ∧
    (next? (exec (.doeSpdmMessage 0 [0x13, 0xE4, 0, 0]) two)).map (fun t => (t.port 0).doeAnswer) = some (some [0x13, 0x7F, 0x0A, 0]) ∧
    (next? (exec (.doeSpdmMessage 0 ([0x13, 0xFE, 0, 0] ++ List.replicate 8 0 ++ [4, 0, 0, 1])) two)).map (fun t =>
      (t.port 0).ideInsecure) = some 1 ∧
    (next? (exec (.doeSpdmMessage 0 [0x13, 0xE0, 0, 4]) hosted)).map (fun t => ((t.port 0).doeAnswer.map fun l => slice l 8 2)) =
      some (some [4, 1]) := by decide +kernel

theorem test_sessions_run_out :
    let s : State := { keyed 0 with hm := { (keyed 0).hm with hmpSessions := 4 } }
    let down : State := { keyed 0 with hm := { (keyed 0).hm with portUp := false } }
    (next? (exec (.spdm (req 0xFF) [0x13, 0xE4, 0, 0]) s)).map (fun t => (t.hm.resp.map HmpResp.body)) =
      some (some [0x13, 0x7F, 0x0A, 0]) ∧
    down.hm.portUp = false ∧ (next? (exec (.ident (req 0xFF)) down)).map (fun t => t.hm.resp) = some none := by decide +kernel

/-- A failed self-test with a flash image that verifies: the loader restarts from it. -/
theorem test_flash_verifies :
    let m := stagedState.hm
    let s : State := { stagedState with hm := { m with flash := m.stagedImage, selfTest := true, fwState := 1 } }
    s.hm.imageOk s.hm.flash = true ∧ s.hm.selfTest = true := by decide +kernel

/-- A start that hangs at a step, its record incomplete. -/
def hangs (step : Nat) (f : State → State) : State :=
  f { keyed 0 with boot := { half0 := [.header 0, .step (step) 0xFFFF 0 0 0 0xFF 0 0 0 0], at_ := some (step, 0xFFFF)
                             rep := some { badSites := [], svn := 0, calibration := [], results := [] } } }

theorem test_hanging_starts :
    let rep : StartReport := { badSites := [], svn := 0, calibration := [], results := [] }
    let s := hangs 0x15 id
    let calm : Filter := { filterDefault 3 with started := true, active := true, lo := 10000000, calm := 10000000 }
    let leak := hangs 0x08 fun s => { s with hm := { s.hm with filters := [(3, calm)] } }
    let first (s : State) : Option JRec := s.boot.records.find? fun r => r.incomplete s.boot.start
    uninjected s = true ∧ s.rewritten = [] ∧ s.boot.resetDue = none ∧ (first s).isSome = true ∧
    (s.hm.filter 0).active = false ∧ (s.hm.filter 3).active = false ∧
    (next? (exec (.hallmarkWatchdogExpiry rep) s)).map (fun t => t.boot.resetDue) = some (some (3, rep)) ∧
    uninjected leak = true ∧ (first leak).isSome = true ∧ (leak.hm.filter 3).release.toNat ≤ (leak.hm.filter 3).calm ∧
    (∀ m, m < 3 → (leak.hm.filter m).due = false ∧ (leak.hm.filter m).active = false) := by decide +kernel

theorem test_sensor_forms :
    let s := keyed 0
    let r (told : Bool) : State := { s with hm := { s.hm with sensors := [(8, { valid := true, told := told })] } }
    beyondWarn 8 96000 (s.hm.warn 8) = true ∧
    (next? (exec (.sensorSample 8 (some 96000)) (r false))).map (fun t => t.hm.alert.getLsbD 1) = some true ∧
    (next? (exec (.sensorSample 8 (some 96000)) (r true))).map (fun t => t.hm.alert.getLsbD 1) = some false ∧
    (next? (exec (.clockStepSwitch 4) { s with islands := [(4, { relock := some 2 })] })).map (fun t =>
      (FMap.find (railOf 4) t.hm.railMv).isSome) = some true := by decide +kernel

theorem test_clock_loss_without_cores :
    let s := idleCore id
    (∀ i ∈ [36, 47, 48, 59], (next? (exec (.islandClockLoss i) s)).map (fun t => (t.lostClocks, (FMap.getD t.hm.ports i []).map (·.1))) =
      some ([i], [0x0B])) ∧
    (next? (exec (.handshakeTimeout 40) s)).map (fun t => (FMap.getD t.hm.ports 40 []).map (·.1)) = some [0x0B] := by decide +kernel

/-- Two allotments: the islands of rows 0 and 1, packages 0 and 1. -/
def shared (s : State) : State :=
  { s with hm := { s.hm with inForce := [rec0, { rec0 with port := 1, row0 := 1, row1 := 1, packages := 2, appCores := 2 }] } }

theorem test_allotments_apart :
    let s := shared (served 8 [] (onSpine { st := .loaded, plan := some plan1 }))
    let x : Instr := .ctlNop (at_ 0) oZ
    s.Up ∧ uninjected s = true ∧ s.Partitioned ∧ s.allotOfSite 0 = some 0 ∧ s.allotOfIsland 6 = some 1 ∧ s.allotOfPkg 1 = some 1 ∧
    (encode x).bind (decode 0) = some x ∧ (s.gov 0).ramp = none ∧
    (∀ w ∈ plan1.works, s.allotOfIsland (islandOf (w.valueAddr.addr plan1.sites / sliceSize)) = some 0) ∧ (next? (exec x s)).isSome = true ∧
    (∀ c ∈ [Instr.exportCut 0 0, .wallMark 0 0, .query 0 0], (next? (exec c s)).isSome = true) := by
  unfold State.Up State.Partitioned
  decide +kernel

end Sys2Proof.Tests
end

namespace Sys2Proof.Machine

open Host (Outcome)

/-! ### What a command answers -/

/-- An outcome that goes on when the units exist, and is the fault noSuchUnit when one does not. -/
def GoesOnIff (ok : Bool) (o : Outcome State Fault Refusal) : Prop :=
  (ok = true → GoesOn o) ∧ (ok = false → o = .fault .noSuchUnit)

theorem GoesOnIff.of_next (t : State) : GoesOnIff true (.next t) := ⟨fun _ => ⟨t, rfl⟩, nofun⟩

/-- A command on units: every shared operation of the model's commands ends in this one. -/
theorem State.onUnit_goesOnIff (s : State) (ok : Bool) (f : State → State) : GoesOnIff ok (s.onUnit ok f) := by
  cases ok
  · exact ⟨nofun, fun _ => rfl⟩
  · exact .of_next _

/-- An instruction row asks for the site of its core alone. -/
theorem issue_goesOnIff (x : Instr) (i : Issue) (regs : List Nat) (body : Offer → State → Res) (s : State) :
    GoesOnIff (decide (i.site < 576)) (issue x i regs body s) :=
  s.onUnit_goesOnIff _ _

/-- A row of the supply names no unit. -/
theorem State.onSupply_goesOnIff (s : State) (f : State → State) : GoesOnIff true (s.onSupply f) := .of_next _

/-- A loader's write that reaches no block's second view goes on with no effect. -/
theorem execLoaderAliasWrite_goesOnIff (who : Requester) (addr size : Nat) (value : Word) (s : State) :
    GoesOnIff true (execLoaderAliasWrite who addr size value s) := by
  unfold execLoaderAliasWrite
  split
  · split
    · exact s.onUnit_goesOnIff _ _
    · exact .of_next s
  · exact .of_next s

/-- A write to no table window goes on with no effect. -/
theorem execTableWindowWrite_goesOnIff (who : Requester) (addr size : Nat) (value : Word) (s : State) :
    GoesOnIff true (execTableWindowWrite who addr size value s) := by
  unfold execTableWindowWrite
  split
  · split
    · exact s.onUnit_goesOnIff _ _
    · exact .of_next s
  · exact .of_next s

/-- The sensors that have a trip limit (R408) are those of the numbering that wf asks for. -/
theorem tripLimit_isSome (id : Nat) :
    (tripLimit id).isSome = (decide (id < 96) || (decide (132 ≤ id) && decide (id < 148))) := by
  unfold tripLimit
  split
  · simp_all
  · split <;> simp_all

theorem execThermalTrip_goesOnIff (sensor : Nat) (s : State) :
    GoesOnIff (decide (sensor < 96) || (decide (132 ≤ sensor) && decide (sensor < 148)))
      (execThermalTrip sensor s) := by
  rw [← tripLimit_isSome]
  exact s.onUnit_goesOnIff _ _

/-- Every command goes on when its units exist, and only then: instruction rows by the site of their core, events,
registers, host commands and requests by the units they name. -/
theorem exec_goesOnIff (c : Instr) (s : State) : GoesOnIff c.wf (exec c s) := by
  cases c with
  | ctlNop | ctlHalt | ctlBr | ctlJal | ctlJr | ctlWhl | ctlBar | ctlSig | ctlSwt | scAdd | scSub | scMul | scAnd
  | scOr | scXor | scShl | scShr | scShru | scMin | scMax | scMinu | scMaxu | scLi | scSli | scCeq | scCne | scClt
  | scCle | scCltu | scCleu | scPset | scLd | scLdw | scSt | scStw | scFlg | scFlgc | scCsr | vAdd | vSub | vMul
  | vFma | vMax | vMin | vAbs | vNeg | vDiv | vSqrt | vExp2 | vLog2 | vIadd | vIsub | vImul | vAnd | vOr | vXor
  | vShl | vShr | vShru | vCvt | vCeq | vCne | vClt | vCle | vCgt | vCge | vCun | vSel | vPack | vUnpk | vPerm
  | vBcast | vTr32 | vIns | vLd | vSt | vGth | vSct | vSadd | vSum | vSsq | vDot | vRmax | vRmin | vMv | vCnt
  | vExt | mxLdw | mxPre | mxMul | mxDrn | spPrd | mkCap | stReq | stPop | stRel | dmGo | dmStop | upAcc | upFin
  | rnDrop | rnWord | pwRamp | pwBsel =>
    exact issue_goesOnIff _ _ _ _ s
  | taskStart | triggerFire | wheelWatchdog | signalDelivery | memoryAccessComplete | tileLoadComplete | drainStart
  | overflowReplay | drainComplete | predictedTileOpen | streamEntryFetch | streamEntryPresent | vectorComplete
  | dmaDescriptor | dmaChGo | dmaChStop | upAccApply | reductionReport | endOfReductionMark | verdict
  | planisherTileUpdate | clearPass | trustRatio | planisherUpdateCompletion | captureComplete | vetchTileEvolve
  | changeList | vetchTileWrite | stepBoundary | cutConsistent | pageUndoCopy | plannedFence | replayStartMark
  | planStartMark | stepMark | boundaryMark | phaseTimeRecordWrite | ingestRecord | closeRecord | ingProdWrite
  | ingCfgWrite | sqTailDoorbell | cqHeadWrite | loadPlan | unload | stop | resume | exportCut | restart | wallMark
  | query | ingotExpGo | exportEnd | validatorRequest | rcRegisterRead | registerWrite | mbxWdogWrite
  | osWatchdogExpiry | hostApertureAccess | hostRequestFault | ideStreamInsecure | functionLevelReset | hotReset
  | linkDown | d3hotEntry | doeSpdmMessage | networkFrame | ident | getNonce | readSensors | readLog | alertClear
  | getAllot | setAllot | checkpoint | fence | setEnvelope | setFilter | setNet | setThresh | fwStage | fwVerify
  | fwActivate | fwSelfTestResult | fwSvnCommit | keySet | keyRevoke | spdm | jtagUnlock | moduleReset
  | computeReset | hallmarkReset | hallmarkWatchdogExpiry | journalRestart | startupStepLimit | inputFilterEnter
  | inputFilterLeave | inputHeldAlert | flowWindow | sensorSample | throttleStepUp | clockStepSwitch | governorTick
  | rampComplete | idleWindDown | islandClockLoss | handshakeTimeout | droopBeyondLimit | coreStateError
  | memoryControllerFault | spineFault | logIntake | sliceScrubRead | packageScrubRead | railFault | linkTraining
  | clockStretch | inputSample =>
    apply s.onUnit_goesOnIff
  | thermtripTurnOff | enJoined | inputPowerGood | inrushTimeout | inrushRetry | inputLoss | overVoltage
  | inputTurnOn =>
    apply s.onSupply_goesOnIff
  | loaderAliasWrite => exact execLoaderAliasWrite_goesOnIff _ _ _ _ s
  | tableWindowWrite => exact execTableWindowWrite_goesOnIff _ _ _ _ s
  | thermalTrip => exact execThermalTrip_goesOnIff _ s

/-- Settles O2: every command's outcome is that of the units it names. -/
theorem onlyUnknownUnitsStop : Obligations.OnlyUnknownUnitsStop := by
  unfold Obligations.OnlyUnknownUnitsStop
  exact exec_goesOnIff

end Sys2Proof.Machine

namespace Sys2Proof.Machine

/-! ### Fields of a word -/

/-- Bit j of a field is bit lo + j of the word. -/
theorem testBit_fld {w : Nat} (x : BitVec w) (h l j : Nat) :
    (fld x h l).testBit j = (decide (j < h - l + 1) && x.getLsbD (l + j)) := by
  simp [fld, Nat.testBit_mod_two_pow, Nat.testBit_shiftRight, BitVec.getLsbD]

theorem fld_lt {w : Nat} (x : BitVec w) (h l : Nat) : fld x h l < 2 ^ (h - l + 1) :=
  Nat.mod_lt _ (Nat.two_pow_pos _)

/-- Setting a field sets its bits and no other. -/
theorem getLsbD_setFld (x : Word) {h l : Nat} (hl : l ≤ h) (v : Nat) {i : Nat} (hi : i < 64) :
    (setFld x h l v).getLsbD i = if l ≤ i ∧ i ≤ h then v.testBit (i - l) else x.getLsbD i := by
  have mask : ((2 ^ (h - l + 1) - 1) <<< l).testBit i = decide (l ≤ i ∧ i ≤ h) := by
    rw [Nat.testBit_shiftLeft, Nat.testBit_two_pow_sub_one, ← Bool.decide_and]
    exact decide_eq_decide.2 (by omega)
  have value : ((v % 2 ^ (h - l + 1)) <<< l).testBit i = (decide (l ≤ i ∧ i ≤ h) && v.testBit (i - l)) := by
    rw [Nat.testBit_shiftLeft, Nat.testBit_mod_two_pow, ← Bool.and_assoc, ← Bool.decide_and]
    congr 1
    exact decide_eq_decide.2 (by omega)
  have key : (setFld x h l v).getLsbD i =
      ((x.getLsbD i && !decide (l ≤ i ∧ i ≤ h)) || (decide (l ≤ i ∧ i ≤ h) && v.testBit (i - l))) := by
    simp only [setFld, BitVec.getLsbD_or, BitVec.getLsbD_and, BitVec.getLsbD_not, BitVec.getLsbD_ofNat, hi,
      decide_true, Bool.true_and, mask, value]
  by_cases hb : l ≤ i ∧ i ≤ h <;> simp [key, hb]

/-- A field that was set reads the value set. -/
theorem fld_setFld_same (x : Word) {h l : Nat} (hl : l ≤ h) (hh : h < 64) {v : Nat} (hv : v < 2 ^ (h - l + 1)) :
    fld (setFld x h l v) h l = v := by
  refine Nat.eq_of_testBit_eq fun j => ?_
  rw [testBit_fld]
  by_cases hj : j < h - l + 1
  · have hb : l ≤ l + j ∧ l + j ≤ h := by omega
    rw [getLsbD_setFld x hl v (by omega), if_pos hb]
    simp [hj]
  · have : v < 2 ^ j := Nat.lt_of_lt_of_le hv (Nat.pow_le_pow_right (by decide) (by omega))
    simp [hj, Nat.testBit_lt_two_pow this]

/-- Setting a field leaves every other one. -/
theorem fld_setFld_of_disjoint (x : Word) {h l h' l' : Nat} (hl : l ≤ h) (hh' : h' < 64) (hl' : l' ≤ h')
    (hd : h < l' ∨ h' < l) (v : Nat) : fld (setFld x h l v) h' l' = fld x h' l' := by
  refine Nat.eq_of_testBit_eq fun j => ?_
  rw [testBit_fld, testBit_fld]
  by_cases hj : j < h' - l' + 1
  · have hb : ¬ (l ≤ l' + j ∧ l' + j ≤ h) := by omega
    rw [getLsbD_setFld x hl v (by omega), if_neg hb]
  · simp [hj]

/-! ### The merge of a write (R7, R427) -/

/-- Two fields of a register that share no bit. -/
def Field.Apart (f g : Field) : Prop := f.hi < g.lo ∨ g.hi < f.lo

/-- Any two fields of a list of fields that lie apart from each other. -/
theorem Field.apart_of_mem {f g : Field} {l : List Field} (hp : l.Pairwise Field.Apart) (hg : g ∈ l) (hf : f ∈ l)
    (hne : g ≠ f) : Field.Apart g f := by
  induction l with
  | nil => cases hf
  | cons x l ih =>
    obtain ⟨hx, hp⟩ := List.pairwise_cons.1 hp
    rcases List.mem_cons.1 hg with rfl | hgl
    · exact hx f ((List.mem_cons.1 hf).resolve_left (Ne.symm hne))
    · rcases List.mem_cons.1 hf with rfl | hfl
      · exact (hx g hgl).symm
      · exact ih hp hgl hfl

/-- A field of a 64-bit word. -/
def Field.Fits (f : Field) : Prop := f.lo ≤ f.hi ∧ f.hi < 64

/-- Setting fields that lie apart from f leaves f. -/
theorem fld_setFields_of_apart (val : Field → Nat) {f : Field} (hf : f.Fits) (l : List Field)
    (hfit : ∀ g ∈ l, g.Fits) (ha : ∀ g ∈ l, Field.Apart g f) (w : Word) :
    fld (l.foldl (fun w g => setFld w g.hi g.lo (val g)) w) f.hi f.lo = fld w f.hi f.lo := by
  induction l generalizing w with
  | nil => rfl
  | cons g l ih =>
    rw [List.foldl_cons, ih (fun x hx => hfit x (List.mem_cons_of_mem _ hx))
      (fun x hx => ha x (List.mem_cons_of_mem _ hx))]
    exact fld_setFld_of_disjoint w (hfit g List.mem_cons_self).1 hf.2 hf.1 (ha g List.mem_cons_self) _

/-- Setting fields that lie apart from each other sets each of them. -/
theorem fld_setFields_of_mem (val : Field → Nat) {f : Field} (hv : val f < 2 ^ (f.hi - f.lo + 1)) (l : List Field)
    (hfit : ∀ g ∈ l, g.Fits) (hp : l.Pairwise Field.Apart) (hf : f ∈ l) (w : Word) :
    fld (l.foldl (fun w g => setFld w g.hi g.lo (val g)) w) f.hi f.lo = val f := by
  induction l generalizing w with
  | nil => cases hf
  | cons g l ih =>
    obtain ⟨hg, hp⟩ := List.pairwise_cons.1 hp
    have hfit' : ∀ x ∈ l, x.Fits := fun x hx => hfit x (List.mem_cons_of_mem _ hx)
    rw [List.foldl_cons]
    by_cases hfl : f ∈ l
    · exact ih hfit' hp hfl _
    · obtain rfl : f = g := (List.mem_cons.1 hf).resolve_right hfl
      have ffit : f.Fits := hfit f List.mem_cons_self
      rw [fld_setFields_of_apart val ffit l hfit' (fun x hx => (hg x hx).symm)]
      exact fld_setFld_same w ffit.1 ffit.2 hv

/-- What a write stores in a field fits in it. -/
theorem Field.written_lt (f : Field) (locked : Bool) (old v : Word) :
    f.written locked old v < 2 ^ (f.hi - f.lo + 1) := by
  unfold Field.written
  split
  · exact fld_lt ..
  · split <;> exact fld_lt ..
  all_goals exact fld_lt ..

/-- A write stores in each field within its part what the field's code says, and leaves every other field. -/
theorem Reg.fld_merge (r : Reg) (part : Part) (locked : Bool) (old v : Word) {f : Field}
    (hfit : ∀ g ∈ r.fields, g.Fits) (hp : r.fields.Pairwise Field.Apart) (hf : f ∈ r.fields) :
    fld (r.merge part locked old v) f.hi f.lo =
      if f.within part = false then fld old f.hi f.lo else f.written locked old v := by
  have hfit' : ∀ g ∈ r.fields.filter (·.within part), g.Fits := fun g hg => hfit g (List.mem_filter.1 hg).1
  unfold Reg.merge
  split
  · rename_i hw
    have apart : ∀ g ∈ r.fields.filter (·.within part), Field.Apart g f := by
      intro g hg
      obtain ⟨hg, hgw⟩ := List.mem_filter.1 hg
      have ne : g ≠ f := by
        rintro rfl
        simp [hw] at hgw
      exact Field.apart_of_mem hp hg hf ne
    exact fld_setFields_of_apart _ (hfit f hf) _ hfit' apart old
  · rename_i hw
    exact fld_setFields_of_mem (fun g => g.written locked old v) (f.written_lt locked old v) _ hfit' (hp.filter _)
      (List.mem_filter.2 ⟨hf, by simpa using hw⟩) old

/-- Settles O44: the fields of a register are set one by one, and none reaches into another. -/
theorem accessCodes : Obligations.AccessCodes := by
  unfold Obligations.AccessCodes
  intro r part locked old v f hfit hp hf
  exact r.fld_merge part locked old v hfit hp hf

end Sys2Proof.Machine

namespace Sys2Proof.Machine

/-! ### A reset of a port that reaches the port of another allotment -/

/-- A function level reset of a port of a module that is on, and the fences that it calls for. -/
theorem exec_functionLevelReset {s : State} {p : Nat} (hp : p < 8) (hon : s.supply.on = true) :
    exec (.functionLevelReset p) s =
      .next (s.portReset p 0 fun po => { po.cleared with d3hot := false }).settleFences := by
  have hex : exec (.functionLevelReset p) s =
      s.onUnit (decide (p < 8)) fun s => s.portReset p 0 fun po => { po.cleared with d3hot := false } := rfl
  rw [hex, State.onUnit, if_pos (decide_eq_true hp), if_pos hon]

namespace StrayCut

/-- Allotment 0: one island, package 0. -/
def record0 : AllotRec :=
  { port := 0, valid := true, interleave := false, row0 := 0, row1 := 0, col0 := 0, col1 := 0, packages := 1
    appCores := 1, l2Ways := 1, slotFirst := 0, slotCount := 16, apLog2 := 30, osBase := 0, osLen := 0 }

/-- Allotment 1: the island of the next row, package 1. -/
def record1 : AllotRec := { record0 with port := 1, row0 := 1, row1 := 1, packages := 2, appCores := 2 }

/-- The one tile that cuts of allotment 0 copy, on package 0. -/
def update : UpdateRec :=
  { valueAddr := .abs 0, bufAddr := .abs 0x10000, stateAddr := 0x010000300000, parkAddr := 0, group := 0, fmt := 0
    tier3 := false, planisher := 0, tile := 0 }

/-- Cuts at every step, the Ingot area well within each package. -/
def ckpt : CkptSec :=
  { firstCut := 0, period := 1, replayMax := 3, hw := 12, ringBase := 0x010000400000, ringLen := 0x10000
    undoLen := 0x10100, ingotOff := 0x10000000, ingotLen := 0x1000000, exclusions := [], frozen := [] }

/-- A plan of one core and one tile. -/
def plan : Plan :=
  { img := { magic := 0x4C504255, formatMajor := 1, formatMinor := 0, revision := 0x20, imageLength := 0
             layoutCount := 1, planId := 7, jobSeed := 1, headerOk := true, imageOk := true, imageDigest := 0, sections := [] }
    layout := 0, cores := 1, packages := [0], sites := [0], loadSites := [0], updates := [update], works := []
    layers := [], maskCurves := [], probes := [], groups := [], groupCurves := [], sweeps := []
    stream := { hdr := { window := false, realTime := false, batch := 1, manSlot := 1, manCore := 0, t0 := 0
                         width := 1, lag := 0, manOff := 0x3000, rejK := 4, phK := 4, rejBase := 0x010000100000
                         phBase := 0x010000200000 }, classes := [], queues := [], owners := [] }
    ckpt := some ckpt
    point := { step := 0, temp := 85, tempTol := 10, clkTol := 0, hostMax := 0, ballast := 255 }
    boundCurves := [], plnBounds := [], ingestBound := 0 }

/-- A consistent cut of step 0 in slot A. -/
def cut : Cut :=
  { step := 0, epoch := 0, layout := 0, ls := 0, clean := 0, fb := [], window := 0, ringPos := 0, slot := 0 }

/-- The cut slot of package 0: a header of zeros with its two checksums, and a directory entry whose tile copy, of one
byte, begins at the first byte of package 1. -/
def slot : List Byte :=
  let hdr := List.replicate 0x5C 0 ++ leBytes 4 (crc32c (List.replicate 4 0)).toNat ++ List.replicate 28 0
  hdr ++ leBytes 4 (crc32c hdr).toNat ++
    (List.replicate 16 0 ++ leBytes 8 (lpBase 1 - slotBase plan ckpt 0 0) ++ List.replicate 8 0)

/-- Allotment 0 runs, both links are up, and the first line of package 1, which is allotment 1's, is poisoned. -/
def state : State :=
  { State.reset with
    supply := { on := true }
    hm := { Hallmark.reset with fwState := 0, inForce := [record0, record1] }
    mem := Memory.write [] (slotBase plan ckpt 0 0) slot
    poisonLines := [lpBase 1 / 64]
    spines := [(0, { st := .loaded, plan := some plan, ingot := { cut := some cut } }), (1, { st := .idle })]
    ports := [(0, { rate := 4, width := 16 }), (1, { rate := 4, width := 16 })] }

/-- What the function level reset of port 0 leaves. -/
def afterReset : State := (state.portReset 0 0 fun po => { po.cleared with d3hot := false }).settleFences

theorem record_state : state.record 0 = some record0 := by decide

theorem noInjection_state : state.NoInjection :=
  ⟨rfl, fun _ => show ({} : Island).inj.getLsbD 0 = false by decide,
    fun _ => show ({} : Package).inj.getLsbD 0 = false by decide⟩

/-- Port 1 held no event before the reset of port 0. -/
theorem events_state : (state.port 1).events = [] := rfl

/-- The reset of port 0 posts the report of the poison in package 1 to port 1, whose allotment owns the package. -/
theorem events_afterReset : (afterReset.port 1).events ≠ [] := by decide +kernel

end StrayCut

/-- Refutes O49: a reset does not keep the ports of the other allotments in every state. The stop of the port's
allotment restores the tiles of its last cut (R337, R466), and reads each tile copy at the offset that the slot's
directory states, unchecked. In StrayCut.state that offset leads into the package of allotment 1, to a poisoned line
whose report goes to its owner as an event (R312, R355): the reset of port 0 changes port 1. -/
theorem not_hostPort : ¬ Obligations.HostPort := by
  unfold Obligations.HostPort
  intro h
  obtain ⟨-, -, -, hreset, -⟩ :=
    h StrayCut.state 0 StrayCut.record0 _ ⟨rfl, rfl⟩ (by decide) StrayCut.record_state rfl
  obtain ⟨t, ht, -, -, -, -, -, -, -, -, -, -, -, -, hother⟩ :=
    hreset (.functionLevelReset 0) false false (.inl ⟨rfl, rfl, rfl⟩) (by decide) StrayCut.noInjection_state
  have hafter : StrayCut.afterReset = t := by
    rw [exec_functionLevelReset (by decide) rfl] at ht
    injection ht
  have hsame : StrayCut.afterReset.port 1 = StrayCut.state.port 1 := hafter ▸ hother 1 (by decide)
  exact StrayCut.events_afterReset (by rw [hsame, StrayCut.events_state])

end Sys2Proof.Machine
